-- ==== Sys2Proof/Word.lean ====
section
/-!
DEFINITION. The fixed widths of 00_scope.md R9: 32-bit registers, 16-bit samples, 8-bit pins,
24-bit range and interval. Every value is unsigned (R10).
-/

namespace Sys2Proof

/-- A host register, a command word, a clock reading: 32 bits (R9). -/
abbrev Word := BitVec 32

/-- One sample word: 16 bits (R9). -/
abbrev Sample := BitVec 16

/-- A pin identifier: 8 bits, 0xFF meaning unset (R9, R39). -/
abbrev Pin := BitVec 8

/-- The configured range in mm or interval in ms: 24 bits (R9). -/
abbrev U24 := BitVec 24

/-- One byte of the sample-buffer memory. -/
abbrev Byte := BitVec 8

end Sys2Proof
end

