-- ==== Sys2Proof/Syntax.lean ====
section
/-!
DEFINITION. The twelve commands of 30_encoding.md R92, one constructor a row of
spec/opcode_table.json. An operand has the width of its field (R91), so every term is encodable.
-/

namespace Sys2Proof

/-- A PWS command (R92). Forms (R91): P carries a pin, U24 an unsigned 24-bit number, B a bit, W16 a
16-bit word, N nothing. -/
inductive Instr where
  /-- CFG_TRIG, form P (R120). -/
  | cfgTrig (pin : Pin)
  /-- CFG_ECHO, form P (R121). -/
  | cfgEcho (pin : Pin)
  /-- CFG_AUX1, form P (R122). -/
  | cfgAux1 (pin : Pin)
  /-- CFG_AUX2, form P (R123). -/
  | cfgAux2 (pin : Pin)
  /-- CFG_RANGE, form U24 (R124). -/
  | cfgRange (mm : U24)
  /-- CFG_INTERVAL, form U24 (R125). -/
  | cfgInterval (ms : U24)
  /-- CFG_CALLBACK, form B (R126). -/
  | cfgCallback (en : Bool)
  /-- SETUP, form N (R140). -/
  | setup
  /-- SAMPLE_ONCE, form N (R146). -/
  | sampleOnce
  /-- ADVANCE, form N (R160). -/
  | advance
  /-- GET_RESULT, form N (R213). -/
  | getResult
  /-- POPCNT16, form W16 (R191). -/
  | popcnt16 (v : Sample)
deriving DecidableEq, Repr

end Sys2Proof
end

