-- ==== Sys2Proof/WellFormed.lean ====
section
/-!
DEFINITION. Commands as an assembler line writes them (30_encoding.md R98): a mnemonic and a number
that may or may not fit its field. "An operand that does not fit its field is an assembly error, never
a truncation": `AsmLine.wf` is that check, and a line that passes it names exactly one `Instr`.
-/

namespace Sys2Proof

/-- The mnemonics of R92. -/
inductive Mnemonic where
  | CFG_TRIG | CFG_ECHO | CFG_AUX1 | CFG_AUX2 | CFG_RANGE | CFG_INTERVAL | CFG_CALLBACK
  | SETUP | SAMPLE_ONCE | ADVANCE | GET_RESULT | POPCNT16
deriving DecidableEq, Repr

/-- The operand forms of R91. -/
inductive Form where
  | N | P | U24 | B | W16
deriving DecidableEq, Repr

/-- The form of each mnemonic (R92). -/
def Mnemonic.form : Mnemonic → Form
  | .CFG_TRIG => .P
  | .CFG_ECHO => .P
  | .CFG_AUX1 => .P
  | .CFG_AUX2 => .P
  | .CFG_RANGE => .U24
  | .CFG_INTERVAL => .U24
  | .CFG_CALLBACK => .B
  | .SETUP => .N
  | .SAMPLE_ONCE => .N
  | .ADVANCE => .N
  | .GET_RESULT => .N
  | .POPCNT16 => .W16

/-- How many value bits a form has (R91). -/
def Form.valueBits : Form → Nat
  | .N => 0
  | .P => 8
  | .U24 => 24
  | .B => 1
  | .W16 => 16

/-- A command line `<mnemonic> [operand]` (R98). -/
structure AsmLine where
  mnemonic : Mnemonic
  operand  : Option Nat
deriving DecidableEq, Repr

/-- R98's check: form N takes no operand; every other form takes one that fits its value bits. -/
def AsmLine.wf (l : AsmLine) : Bool :=
  match l.mnemonic.form, l.operand with
  | .N, none => true
  | .N, some _ => false
  | _, none => false
  | f, some n => decide (n < 2 ^ f.valueBits)

/-- The command line of a command: its mnemonic and its operand as a number. -/
def Instr.toAsm : Instr → AsmLine
  | .cfgTrig p => ⟨.CFG_TRIG, some p.toNat⟩
  | .cfgEcho p => ⟨.CFG_ECHO, some p.toNat⟩
  | .cfgAux1 p => ⟨.CFG_AUX1, some p.toNat⟩
  | .cfgAux2 p => ⟨.CFG_AUX2, some p.toNat⟩
  | .cfgRange u => ⟨.CFG_RANGE, some u.toNat⟩
  | .cfgInterval u => ⟨.CFG_INTERVAL, some u.toNat⟩
  | .cfgCallback b => ⟨.CFG_CALLBACK, some b.toNat⟩
  | .setup => ⟨.SETUP, none⟩
  | .sampleOnce => ⟨.SAMPLE_ONCE, none⟩
  | .advance => ⟨.ADVANCE, none⟩
  | .getResult => ⟨.GET_RESULT, none⟩
  | .popcnt16 v => ⟨.POPCNT16, some v.toNat⟩

/-- A command is well-formed when its line is. Operands have their field's width, so every command
is; Laws/PerInstr.lean says it per constructor. -/
def Instr.wf (i : Instr) : Bool := i.toAsm.wf

end Sys2Proof
end

