-- ==== Sys2Proof/Decode.lean ====
section
/-!
DEFINITION. Command words (30_encoding.md R90 to R92, R97): the decoder, total on any 32-bit word and
rejecting by name; then, from the same tables, the encoder, the opcode map as a list of rows, and the
assembler of R98.
-/

namespace Sys2Proof

/-- Why a word is illegal (R97). -/
inductive DecodeError where
  /-- The OPC value is not in R92's table. -/
  | unknownOpc (opc : BitVec 8)
  /-- The OPC is listed, and a must-be-zero bit is 1. -/
  | mbzSet (opc : BitVec 8)
deriving DecidableEq, Repr

/-- OPC, bits 31:24 (R90). -/
def opcField (w : Word) : BitVec 8 := w.extractLsb' 24 8

/-- OPERAND, bits 23:0 (R90). -/
def operandField (w : Word) : BitVec 24 := w.extractLsb' 0 24

/-- Form N: bits 23:0 are MBZ (R91). -/
def operandN (o : BitVec 24) : Option Unit :=
  if o = 0#24 then some () else none

/-- Form P: value 7:0, MBZ 23:8 (R91). -/
def operandP (o : BitVec 24) : Option Pin :=
  if o.extractLsb' 8 16 = 0#16 then some (o.extractLsb' 0 8) else none

/-- Form U24: value 23:0, no MBZ bit (R91). -/
def operandU24 (o : BitVec 24) : Option U24 := some o

/-- Form B: value 0, MBZ 23:1 (R91). -/
def operandB (o : BitVec 24) : Option Bool :=
  if o.extractLsb' 1 23 = 0#23 then some (o.getLsbD 0) else none

/-- Form W16: value 15:0, MBZ 23:16 (R91). -/
def operandW16 (o : BitVec 24) : Option Sample :=
  if o.extractLsb' 16 8 = 0#8 then some (o.extractLsb' 0 16) else none

/-- A listed OPC with its operand read, or the MBZ rejection of R97. -/
def withOperand {α : Type} (opc : BitVec 8) (read : Option α) (mk : α → Instr) :
    Except DecodeError Instr :=
  match read with
  | some a => .ok (mk a)
  | none => .error (.mbzSet opc)

/-- The command a word stands for (R92), or why it is illegal (R97). -/
def decode (w : Word) : Except DecodeError Instr :=
  let opc := opcField w
  let o := operandField w
  match opc.toNat with
  | 0x01 => withOperand opc (operandP o) .cfgTrig
  | 0x02 => withOperand opc (operandP o) .cfgEcho
  | 0x03 => withOperand opc (operandP o) .cfgAux1
  | 0x04 => withOperand opc (operandP o) .cfgAux2
  | 0x05 => withOperand opc (operandU24 o) .cfgRange
  | 0x06 => withOperand opc (operandU24 o) .cfgInterval
  | 0x07 => withOperand opc (operandB o) .cfgCallback
  | 0x10 => withOperand opc (operandN o) fun _ => .setup
  | 0x11 => withOperand opc (operandN o) fun _ => .sampleOnce
  | 0x12 => withOperand opc (operandN o) fun _ => .advance
  | 0x13 => withOperand opc (operandN o) fun _ => .getResult
  | 0x20 => withOperand opc (operandW16 o) .popcnt16
  | _ => .error (.unknownOpc opc)

/-- A command word from OPC and OPERAND (R90). -/
def commandWord (opc : BitVec 8) (o : BitVec 24) : Word := opc ++ o

/-- The word of a command (R91, R92): every must-be-zero bit is 0. -/
def encode : Instr → Word
  | .cfgTrig p => commandWord 0x01#8 (p.setWidth 24)
  | .cfgEcho p => commandWord 0x02#8 (p.setWidth 24)
  | .cfgAux1 p => commandWord 0x03#8 (p.setWidth 24)
  | .cfgAux2 p => commandWord 0x04#8 (p.setWidth 24)
  | .cfgRange u => commandWord 0x05#8 u
  | .cfgInterval u => commandWord 0x06#8 u
  | .cfgCallback b => commandWord 0x07#8 ((BitVec.ofBool b).setWidth 24)
  | .setup => commandWord 0x10#8 0#24
  | .sampleOnce => commandWord 0x11#8 0#24
  | .advance => commandWord 0x12#8 0#24
  | .getResult => commandWord 0x13#8 0#24
  | .popcnt16 v => commandWord 0x20#8 (v.setWidth 24)

/-- A row of the opcode map: the words w with w &&& mask = pattern (R92). -/
structure OpcodeRow where
  mnemonic : Mnemonic
  pattern  : Word
  mask     : Word
deriving DecidableEq, Repr

/-- The match and mask table of R92. -/
def opcodeRows : List OpcodeRow :=
  [ ⟨.CFG_TRIG, 0x01000000#32, 0xFFFFFF00#32⟩,
    ⟨.CFG_ECHO, 0x02000000#32, 0xFFFFFF00#32⟩,
    ⟨.CFG_AUX1, 0x03000000#32, 0xFFFFFF00#32⟩,
    ⟨.CFG_AUX2, 0x04000000#32, 0xFFFFFF00#32⟩,
    ⟨.CFG_RANGE, 0x05000000#32, 0xFF000000#32⟩,
    ⟨.CFG_INTERVAL, 0x06000000#32, 0xFF000000#32⟩,
    ⟨.CFG_CALLBACK, 0x07000000#32, 0xFFFFFFFE#32⟩,
    ⟨.SETUP, 0x10000000#32, 0xFFFFFFFF#32⟩,
    ⟨.SAMPLE_ONCE, 0x11000000#32, 0xFFFFFFFF#32⟩,
    ⟨.ADVANCE, 0x12000000#32, 0xFFFFFFFF#32⟩,
    ⟨.GET_RESULT, 0x13000000#32, 0xFFFFFFFF#32⟩,
    ⟨.POPCNT16, 0x20000000#32, 0xFFFF0000#32⟩ ]

/-- Whether a word matches a row (R93: "(w & mask) = match"). -/
def OpcodeRow.matchesWord (r : OpcodeRow) (w : Word) : Bool := w &&& r.mask == r.pattern

/-- The command a line names, for a line that passes R98's check; none for an assembly error. -/
def AsmLine.assemble (l : AsmLine) : Option Instr :=
  if l.wf then
    let n := l.operand.getD 0
    match l.mnemonic with
    | .CFG_TRIG => some (.cfgTrig (BitVec.ofNat 8 n))
    | .CFG_ECHO => some (.cfgEcho (BitVec.ofNat 8 n))
    | .CFG_AUX1 => some (.cfgAux1 (BitVec.ofNat 8 n))
    | .CFG_AUX2 => some (.cfgAux2 (BitVec.ofNat 8 n))
    | .CFG_RANGE => some (.cfgRange (BitVec.ofNat 24 n))
    | .CFG_INTERVAL => some (.cfgInterval (BitVec.ofNat 24 n))
    | .CFG_CALLBACK => some (.cfgCallback (n == 1))
    | .SETUP => some .setup
    | .SAMPLE_ONCE => some .sampleOnce
    | .ADVANCE => some .advance
    | .GET_RESULT => some .getResult
    | .POPCNT16 => some (.popcnt16 (BitVec.ofNat 16 n))
  else none

/-- The decoder on a row of spec/opcode_table.json: every row is one 32-bit command, "one write is one
command" (R90); bits above nbits are 0. -/
def decodeTableWord (nbits w : Nat) : Option Instr :=
  if nbits ≤ 32 then
    match decode (BitVec.ofNat 32 (w % 2 ^ nbits)) with
    | .ok i => some i
    | .error _ => none
  else none

end Sys2Proof
end

