-- ==== Sys2Proof/Config.lean ====
section
/-!
DEFINITION. What one platform fixes (the parameters of 00_scope.md R7 and their constraints R8), what
the environment may present to the machine (the inputs of 10_state.md R46, 20_memory.md R61 and R68,
70_reset_and_hazards.md R280), and the free values: constants without a body.
-/

namespace Sys2Proof

/-- The parameters of R7. The model takes them as arguments: they are carried in State, where no step
changes them. DESIGN CHOICE, safe: log 1. BIT_PERIOD_US is a whole number of µs, 0 among them: the spec
gives it no number type. DESIGN CHOICE, safe: log 19. REG_BASE, like every host address, is a number
without a bus width, and REG_BASE + off never wraps. DESIGN CHOICE, unsafe where a platform's window
passes the top of its bus: log 20. -/
structure Config where
  leadingOverheadSamples : Nat
  samplesPerMeter        : Nat
  wordsPerRangeUnit      : Nat
  samplingTimeoutMs      : Nat
  bufsForComplete        : Nat
  soundHalfSpeed         : Nat
  triggerWord            : Sample
  bitPeriodUs            : Nat
  defaultRangeMm         : U24
  numPins                : Nat
  bufCapacityWords       : Nat
  regBase                : Nat
deriving DecidableEq, Repr

/-- R7's defaults. NUM_PINS, BUF_CAPACITY_WORDS and REG_BASE are OPEN there.
DESIGN CHOICE, unsafe: 32 and 4096 (95_test_vectors.md, Conventions) and 0x40000000; log 2. -/
def Config.source : Config where
  leadingOverheadSamples := 152
  samplesPerMeter        := 48
  wordsPerRangeUnit      := 4
  samplingTimeoutMs      := 30
  bufsForComplete        := 2
  soundHalfSpeed         := 170
  triggerWord            := 0xFFFF#16
  bitPeriodUs            := 1
  defaultRangeMm         := 2000#24
  numPins                := 32
  bufCapacityWords       := 4096
  regBase                := 0x40000000

/-- R8's constraints, with REG_BASE aligned (93_implementation_defined.md section 2).
The last line is R195's "N is 32-bit unsigned", which R8 implies unless SOUND_HALF_SPEED is 0.
DEDUCED, safe: log 3. -/
def Config.wf (c : Config) : Bool :=
  c.leadingOverheadSamples % 4 == 0
    && c.wordsPerRangeUnit % 4 == 0
    && decide (1 ≤ c.numPins)
    && decide (c.numPins ≤ 255)
    && decide (c.leadingOverheadSamples ≤ c.bufCapacityWords)
    && decide (16 * c.bufCapacityWords * c.soundHalfSpeed < 2 ^ 32)
    && decide (1 ≤ c.bufsForComplete)
    && decide (c.samplingTimeoutMs < 2 ^ 31)
    && c.regBase % 4 == 0
    && decide (16 * c.bufCapacityWords < 2 ^ 32)

/-- PCFG, the constant P_INIT carries (60_exceptions.md R262): "16-bit stereo samples, master mode, a
sample rate chosen so that one output bit corresponds to one microsecond". -/
structure PeriphConfig where
  sampleBits  : Nat
  channels    : Nat
  master      : Bool
  bitPeriodUs : Nat
deriving DecidableEq, Repr

/-- PCFG under the platform's bit period (R262, 92_eei_decisions.md D35). -/
def Config.pcfg (c : Config) : PeriphConfig :=
  { sampleBits := 16, channels := 2, master := true, bitPeriodUs := c.bitPeriodUs }

/-- What the environment presents for the next ADVANCE to draw (R46, R160): the clock and the
peripheral's two answers. -/
structure Draws where
  nowMs   : Word
  initOk  : Bool
  startOk : Bool
deriving DecidableEq, Repr, Inhabited

/-- One thing the world outside may do to the PWS; one stimulus is one step (R13, R71, R253). -/
inductive Stimulus where
  /-- Nothing happens: the PWS waits. -/
  | quiet
  /-- The host executes MemRead(addr, width) (R61). The address has no bus width: log 20. -/
  | hostRead (addr width : Nat)
  /-- The host executes MemWrite(addr, width, value) (R61). The address has no bus width: log 20. -/
  | hostWrite (addr width : Nat) (value : Word)
  /-- A BUF_NEEDED notification (R230). -/
  | bufNeeded
  /-- The peripheral writes the 16-bit word RX[i] (R67, R68). -/
  | rxWord (i : Nat) (v : Sample)
  /-- The peripheral writes the 32-bit transfer unit u of RX (R65, R67, R68). -/
  | rxUnit (u : Nat) (v : Word)
  /-- The clock and the peripheral settle what the next ADVANCE draws (R46). -/
  | present (d : Draws)
  /-- The reset input (R280). -/
  | reset
  /-- Power-down, "A model treats power-down as reset" (R266). -/
  | powerDown
deriving DecidableEq, Repr, Inhabited

/-- Free value: the k-th stimulus once nothing is scheduled; arrivals and their order are open
(R253, U13). DESIGN CHOICE, safe: log 4. -/
opaque Config.freeStimulus : Nat → Stimulus

/-- Free value: what the environment presents after its last draws were used (R46, U11, U12).
DESIGN CHOICE, safe: log 5. -/
opaque Config.freeDraws : Nat → Draws

/-- Free value: byte a of the k-th freshly allocated buffer (R43, R143, U9). DEDUCED, safe: log 9. -/
opaque Config.freeByte : Nat → Nat → Byte

end Sys2Proof
end

