-- ==== Sys2Proof/Machine/State.lean ====
section
/-!
DEFINITION. The state of the PWS as plain data (10_state.md R20 to R46), and the state after reset
(R51). INVENTORY.md lists every piece with its rule. Operations on it are in Machine/Ops.lean.
-/

namespace Sys2Proof.Machine

/-- STATUS.STATE (R27). The value 3 is "never held" (U1) and has no constructor. -/
inductive SeqState where
  | idle | triggering | sampling
deriving DecidableEq, Repr

/-- STATUS.PERIPH, the last control action issued to the peripheral (R29). -/
inductive Periph where
  | uninit | init | running | stopped
deriving DecidableEq, Repr

/-- RESP.ERR (R96). The reserved codes 6 to 255 are never written (U4) and have no constructor. -/
inductive ErrCode where
  | none | illegal | busy | config | alloc | faulted
deriving DecidableEq, Repr

/-- RESP as its fields (R25). -/
structure Resp where
  ok   : Bool
  err  : ErrCode
  data : BitVec 16
deriving DecidableEq, Repr

/-- RESULT.STATUS (R35). The last two are reserved and never recorded (R215). DEDUCED, safe: log 18. -/
inductive ResultStatus where
  | success | error | tooManyRetries | busy
deriving DecidableEq, Repr

/-- RESULT.CAUSE (R36). The values 4 to 14 are never written (U3) and have no constructor. -/
inductive Cause where
  | none | initFail | startFail | timeout | noResult
deriving DecidableEq, Repr

/-- The two sticky fault bits (R30, R255). -/
inductive FaultBit where
  | resize | nobuf
deriving DecidableEq, Repr

/-- A pin direction an action sets (R44). -/
inductive PinDir where
  | input | output
deriving DecidableEq, Repr

/-- PIN_MODE[p] (R45). UNKNOWN is the spec's own value for "the platform decides" (U14). -/
inductive PinMode where
  | unknown | input | output
deriving DecidableEq, Repr

/-- PIN_LEVEL[p] (R45). -/
inductive PinLevel where
  | unknown | low | high
deriving DecidableEq, Repr

/-- An external action of the output trace (R44). The peripheral behind it is outside the PWS (R20,
R262). DESIGN CHOICE: log 17. -/
inductive Action where
  | gpioMode (pin : Pin) (dir : PinDir)
  | gpioWrite (pin : Pin) (level : Bool)
  | pInit (cfg : PeriphConfig) (trig echo aux1 aux2 : Pin)
  | pStart (units : Word)
  | pStop
  | pUninit
  | resultEvent (status : ResultStatus) (count distUm : Word)
deriving DecidableEq, Repr

/-- What the bytes of a sample buffer that are not listed read as: zero after the TRIGGERING step's
zeroing (R166), free bytes after allocation (R143, U9). DEDUCED, safe: log 9. -/
inductive Fill where
  | zero
  | unspecified (k : Nat)
deriving DecidableEq, Repr

/-- One sample buffer (R43, R64): a list of (byte address, byte) pairs, word i at bytes 2i and 2i + 1,
low byte first (R65). DEDUCED, safe: log 10. -/
structure Memory where
  cells : List Host.Cell
  fill  : Fill
deriving DecidableEq, Repr

/-- What an unlisted byte reads as. -/
def Fill.byte : Fill → Nat → Byte
  | .zero, _ => 0#8
  | .unspecified k, a => Config.freeByte k a

/-- Addresses rise strictly along the list. -/
def cellsSorted : List Host.Cell → Bool
  | [] => true
  | c :: rest => rest.all (fun d => decide (c.1 < d.1)) && cellsSorted rest

/-- The canonical form: addresses strictly rising, and no entry equal to what an unlisted address
reads as. -/
def Memory.wf (m : Memory) : Bool :=
  cellsSorted m.cells && m.cells.all fun c => c.2 != m.fill.byte c.1

/-- A buffer whose words are all zero, nothing listed. -/
def Memory.zeroed : Memory := { cells := [], fill := .zero }

/-- Why a step stops. Commands never stop: R61's malformed host accesses do. -/
inductive Fault where
  /-- Raised by a host access inside the window that is not one aligned 32-bit register (R61, U6: "the
  host agent is stuck"). Safe: nothing is proved past it (92_eei_decisions.md D3; log 7). -/
  | busError
  /-- Raised by a host access outside the window: "Addresses outside the window are not the PWS's"
  (R61, U6: stuck). Safe: nothing is proved past it (log 7). -/
  | outsideWindow
deriving DecidableEq, Repr

/-- Why the model gives a step no meaning. -/
inductive Refusal where
  /-- Raised by an arm of exec whose instruction has no meaning yet. Safe. No arm of this model. -/
  | notModelled (mnemonic : String)
  /-- Raised by step when the parameters break R8: "A model must refuse a configuration that breaks
  one". Safe: nothing is proved of such a platform (log 3). -/
  | badConfiguration
deriving DecidableEq, Repr

/-- The machine: the registers of 10_state.md section 2, the sample buffers, the trace, the GPIO port,
the environment's inputs, the platform's parameters, and the model's own agenda and counter. -/
@[ext]
structure State where
  /-- The parameters of R7; no step changes them (log 1). -/
  config       : Config
  /-- RESP (R25). -/
  resp         : Resp
  /-- STATUS.STATE (R27). -/
  state        : SeqState
  /-- STATUS.ALLOC (R28). -/
  alloc        : Bool
  /-- STATUS.PERIPH (R29). -/
  periph       : Periph
  /-- STATUS.F_RESIZE (R30). -/
  fResize      : Bool
  /-- STATUS.F_NOBUF (R30). -/
  fNobuf       : Bool
  /-- BUFREQ (R31). -/
  bufreq       : Word
  /-- NUM_SAMPLES (R32). -/
  numSamples   : Word
  /-- START_MS (R33). -/
  startMs      : Word
  /-- RESULT.STATUS (R34, R35). -/
  resultStatus : ResultStatus
  /-- RESULT.CAUSE (R34, R36). -/
  resultCause  : Cause
  /-- RESULT.SEQ (R34). -/
  resultSeq    : BitVec 16
  /-- RESULT_COUNT (R37). -/
  resultCount  : Word
  /-- RESULT_DIST_UM (R38). -/
  resultDistUm : Word
  /-- CFG_PINS.TRIG (R39). -/
  pinTrig      : Pin
  /-- CFG_PINS.ECHO (R39). -/
  pinEcho      : Pin
  /-- CFG_PINS.AUX1 (R39). -/
  pinAux1      : Pin
  /-- CFG_PINS.AUX2 (R39). -/
  pinAux2      : Pin
  /-- CFG_RANGE_MM, bits 23:0 (R40). -/
  rangeMm      : U24
  /-- CFG_INTERVAL_MS, bits 23:0 (R41). -/
  intervalMs   : U24
  /-- CFG_FLAGS.CB_EN (R42). -/
  cbEn         : Bool
  /-- RX (R43). -/
  rx           : Memory
  /-- TX (R43). -/
  tx           : Memory
  /-- OUT, the output trace, oldest first (R44). -/
  out          : List Action
  /-- PIN_MODE[p] for p < NUM_PINS (R45). -/
  pinMode      : List PinMode
  /-- PIN_LEVEL[p] for p < NUM_PINS (R45). -/
  pinLevel     : List PinLevel
  /-- NOW_MS, INIT_OK and START_OK as the next ADVANCE draws them (R46; log 5). -/
  draws        : Draws
  /-- The model's own: the stimuli scheduled next, oldest first (log 4). -/
  agenda       : List Stimulus
  /-- The model's own: what MemRead last returned to the host (R62; log 15). -/
  busData      : Word
  /-- The model's own: how many free values were drawn. -/
  freeIx       : Nat
deriving DecidableEq, Repr

/-- The state after reset on a platform with the given parameters (R51, R280 to R282). The last four
fields are the environment's and the model's own. DESIGN CHOICE, unsafe: log 6. -/
def State.resetWith (c : Config) : State where
  config       := c
  resp         := { ok := false, err := .none, data := 0#16 }
  state        := .idle
  alloc        := false
  periph       := .uninit
  fResize      := false
  fNobuf       := false
  bufreq       := 0#32
  numSamples   := 0#32
  startMs      := 0#32
  resultStatus := .error
  resultCause  := .noResult
  resultSeq    := 0#16
  resultCount  := 0#32
  resultDistUm := 0#32
  pinTrig      := 0xFF#8
  pinEcho      := 0xFF#8
  pinAux1      := 0xFF#8
  pinAux2      := 0xFF#8
  rangeMm      := c.defaultRangeMm
  intervalMs   := 0#24
  cbEn         := false
  rx           := Memory.zeroed
  tx           := Memory.zeroed
  out          := []
  pinMode      := List.replicate c.numPins .unknown
  pinLevel     := List.replicate c.numPins .unknown
  draws        := { nowMs := 0#32, initOk := false, startOk := false }
  agenda       := []
  busData      := 0#32
  freeIx       := 0

/-- The state after reset with R7's default parameters (log 2 for the three that are OPEN). -/
def State.reset : State := State.resetWith Config.source

end Sys2Proof.Machine
end

