-- ==== Sys2Proof/Machine/Flags.lean ====
section
/-!
DEFINITION. How the PWS reports (10_state.md R47: "no condition codes or predicate registers"): the
response register written by respond (30_encoding.md R95, R96), the codes of the register fields
(R26 to R36), and the sticky fault bits (R30, R255).
-/

namespace Sys2Proof.Machine

/-- RESP.ERR's code (R96). -/
def ErrCode.code : ErrCode → BitVec 8
  | .none => 0x00#8
  | .illegal => 0x01#8
  | .busy => 0x02#8
  | .config => 0x03#8
  | .alloc => 0x04#8
  | .faulted => 0x05#8

/-- STATUS.STATE's code (R27). -/
def SeqState.code : SeqState → BitVec 2
  | .idle => 0#2
  | .triggering => 1#2
  | .sampling => 2#2

/-- STATUS.PERIPH's code (R29). -/
def Periph.code : Periph → BitVec 2
  | .uninit => 0#2
  | .init => 1#2
  | .running => 2#2
  | .stopped => 3#2

/-- RESULT.STATUS's code (R35). -/
def ResultStatus.code : ResultStatus → BitVec 2
  | .success => 0#2
  | .error => 1#2
  | .tooManyRetries => 2#2
  | .busy => 3#2

/-- RESULT.CAUSE's code (R36). -/
def Cause.code : Cause → BitVec 4
  | .none => 0#4
  | .initFail => 1#4
  | .startFail => 2#4
  | .timeout => 3#4
  | .noResult => 15#4

/-- respond(ok, err, data) writes the response register (R95). -/
def respond (ok : Bool) (err : ErrCode) (data : BitVec 16) (s : State) : State :=
  { s with resp := { ok := ok, err := err, data := data } }

/-- respond(1, NONE, data). -/
def succeed (data : BitVec 16) (s : State) : State := respond true .none data s

/-- respond(0, err, 0). -/
def reject (err : ErrCode) (s : State) : State := respond false err 0#16 s

/-- "While either is 1 the PWS is faulted" (R30, R255). -/
def State.faulted (s : State) : Bool := s.fResize || s.fNobuf

end Sys2Proof.Machine
end

