-- ==== Sys2Proof/Machine/Ops.lean ====
section
/-!
DEFINITION. The named operations over the sample-buffer memory, the trace and the registers that the
meanings share: reading and writing RX and TX (20_memory.md R64, R65), emit (10_state.md R44, R45),
raise Fault (60_exceptions.md R255), record (45_results.md R210), the common command checks
(30_encoding.md R93, 41_configuration.md), the draws (R46) and reset (R280).
-/

namespace Sys2Proof.Machine

/-- What a step answers. -/
abbrev StepResult := Host.Outcome State Fault Refusal

/-! ### Sample-buffer memory -/

/-- The byte listed for an address, if any. -/
def lookupCell : List Host.Cell → Nat → Option Byte
  | [], _ => none
  | c :: rest, a => if c.1 = a then some c.2 else lookupCell rest a

/-- Read one byte of a sample buffer. -/
def Memory.readByte (m : Memory) (a : Nat) : Byte := (lookupCell m.cells a).getD (m.fill.byte a)

/-- Drop the entry of an address. -/
def eraseCell (a : Nat) : List Host.Cell → List Host.Cell
  | [] => []
  | c :: rest => if c.1 = a then rest else c :: eraseCell a rest

/-- Put an entry at its place in the rising order, over any entry of the same address. -/
def insertCell (a : Nat) (b : Byte) : List Host.Cell → List Host.Cell
  | [] => [(a, b)]
  | c :: rest =>
    if c.1 = a then (a, b) :: rest
    else if a < c.1 then (a, b) :: c :: rest
    else c :: insertCell a b rest

/-- Write one byte, keeping the canonical form: the value an unlisted byte reads as is not listed. -/
def Memory.writeByte (m : Memory) (a : Nat) (b : Byte) : Memory :=
  if b = m.fill.byte a then { m with cells := eraseCell a m.cells }
  else { m with cells := insertCell a b m.cells }

/-- The sample word i: bytes 2i and 2i + 1, little-endian (R65). -/
def Memory.readSample (m : Memory) (i : Nat) : Sample :=
  m.readByte (2 * i + 1) ++ m.readByte (2 * i)

/-- Write the sample word i (R65). -/
def Memory.writeSample (m : Memory) (i : Nat) (v : Sample) : Memory :=
  (m.writeByte (2 * i) (v.extractLsb' 0 8)).writeByte (2 * i + 1) (v.extractLsb' 8 8)

/-- Write word i of a buffer of n words. "No rule indexes outside 0 .. NUM_SAMPLES-1" (R64); a write
outside touches nothing. DESIGN CHOICE, unsafe: log 11. -/
def Memory.writeIn (m : Memory) (n i : Nat) (v : Sample) : Memory :=
  if i < n then m.writeSample i v else m

/-- The 32-bit transfer unit u: word 2u in bits 15:0, word 2u + 1 in bits 31:16 (R65). -/
def Memory.readUnit (m : Memory) (u : Nat) : Word :=
  m.readSample (2 * u + 1) ++ m.readSample (2 * u)

/-- Write transfer unit u of a buffer of n words (R65, R67). -/
def Memory.writeUnit (m : Memory) (n u : Nat) (v : Word) : Memory :=
  (m.writeIn n (2 * u) (v.extractLsb' 0 16)).writeIn n (2 * u + 1) (v.extractLsb' 16 16)

/-! ### The trace and the GPIO port -/

/-- The mode a direction sets (R45). -/
def PinDir.mode : PinDir → PinMode
  | .input => .input
  | .output => .output

/-- The level a write sets (R45). -/
def PinLevel.ofBool : Bool → PinLevel
  | false => .low
  | true => .high

/-- PIN_MODE after an action: GPIO_MODE(p, m) sets PIN_MODE[p], and a pin at or above NUM_PINS is no pin
(R45, R263). -/
def modesAfter (numPins : Nat) (a : Action) (modes : List PinMode) : List PinMode :=
  match a with
  | .gpioMode p d => if p.toNat < numPins then modes.set p.toNat d.mode else modes
  | _ => modes

/-- PIN_LEVEL after an action: GPIO_WRITE(p, v) sets PIN_LEVEL[p] "whatever the mode" (R45, R263). -/
def levelsAfter (numPins : Nat) (a : Action) (levels : List PinLevel) : List PinLevel :=
  match a with
  | .gpioWrite p v => if p.toNat < numPins then levels.set p.toNat (.ofBool v) else levels
  | _ => levels

/-- emit A: append the action to OUT and drive the matching port (R11, R44, R45). -/
def emit (a : Action) (s : State) : State :=
  { s with
    out := s.out ++ [a]
    pinMode := modesAfter s.config.numPins a s.pinMode
    pinLevel := levelsAfter s.config.numPins a s.pinLevel }

/-! ### Registers -/

/-- state <- S (R11). -/
def setState (st : SeqState) (s : State) : State := { s with state := st }

/-- reg[STATUS].PERIPH <- p (R29). -/
def setPeriph (p : Periph) (s : State) : State := { s with periph := p }

/-- raise Fault(F): taking an exception. "Sets the bit and does nothing else" (R255); "saves no state,
changes no mode and jumps nowhere" (R256). There is no return from it but reset (R257). -/
def raiseFault (f : FaultBit) (s : State) : State :=
  match f with
  | .resize => { s with fResize := true }
  | .nobuf => { s with fNobuf := true }

/-- A command that raises a fault ends with respond(0, FAULTED, 0) (R140, R162). -/
def faultCommand (f : FaultBit) (s : State) : State := reject .faulted (raiseFault f s)

/-- The RESULT registers' writes of record (R210). -/
def storeResult (status : ResultStatus) (cause : Cause) (n dist : Word) (s : State) : State :=
  { s with
    resultStatus := status
    resultCause := cause
    resultSeq := s.resultSeq + 1#16
    resultCount := n
    resultDistUm := dist }

/-- record(status, cause, n, dist): the only writer of the RESULT registers, then the result event
where CB_EN = 1 (R210, R212). -/
def record (status : ResultStatus) (cause : Cause) (n dist : Word) (s : State) : State :=
  if s.cbEn then emit (.resultEvent status n dist) (storeResult status cause n dist s)
  else storeResult status cause n dist s

/-- The draws are used: what the environment presents next is a free value (R46). DESIGN CHOICE,
safe: log 5. -/
def redraw (s : State) : State :=
  { s with draws := Config.freeDraws s.freeIx, freeIx := s.freeIx + 1 }

/-- (now - START_MS) mod 2^32 (R161, R170, R261). -/
def elapsed (now : Word) (s : State) : Word := now - s.startMs

/-! ### Commands -/

/-- The check every command starts with: a faulted PWS answers FAULTED and does nothing else
(R93, R255). -/
def command (body : State → State) (s : State) : StepResult :=
  .next (if s.faulted then reject .faulted s else body s)

/-- A command that needs STATE = IDLE answers BUSY otherwise (R96, 41_configuration.md, R146). -/
def whenIdle (body : State → State) (s : State) : State :=
  if s.state = .idle then body s else reject .busy s

/-- A configuration command: in IDLE it writes its field and answers respond(1, NONE, 0) (R120 to
R126). -/
def configure (write : State → State) (s : State) : StepResult :=
  command (whenIdle fun s => succeed 0#16 (write s)) s

/-! ### Reset -/

/-- Reset: every register at its value of R51, nothing recorded, nothing emitted, both fault bits clear,
the buffers released (R280 to R282). The environment's inputs and the host's own data stay.
DEDUCED, safe: log 13. -/
def applyReset (s : State) : State :=
  { State.resetWith s.config with
    draws := s.draws, agenda := s.agenda, busData := s.busData, freeIx := s.freeIx }

end Sys2Proof.Machine
end

