-- ==== Sys2Proof/Machine/Compute.lean ====
section
/-!
DEFINITION. The distance compute unit (44_compute.md R190 to R197) and POPCNT16.
-/

namespace Sys2Proof.Machine

/-- The sum of f(0) .. f(n-1). -/
def sumBelow (f : Nat → Nat) : Nat → Nat
  | 0 => 0
  | n + 1 => sumBelow f n + f n

/-- popcount16(w) = sum over k in 0..15 of w[k] (R190). -/
def popcount16 (w : Sample) : Nat := sumBelow (fun k => (w.getLsbD k).toNat) 16

/-- N = sum over i in 0 .. NUM_SAMPLES-1 of popcount16(RX[i]): every word counts (R193, R297). -/
def echoSum (s : State) : Nat :=
  sumBelow (fun i => popcount16 (s.rx.readSample i)) s.numSamples.toNat

/-- DIST_UM = N * SOUND_HALF_SPEED, in whole micrometres (R194). -/
def distanceUm (c : Config) (n : Nat) : Nat := n * c.soundHalfSpeed

/-- POPCNT16: respond(1, NONE, popcount16(v)); allowed in every state (R191). -/
def execPopcnt16 (v : Sample) (s : State) : StepResult :=
  command (succeed (BitVec.ofNat 16 (popcount16 v))) s

end Sys2Proof.Machine
end

