-- ==== Sys2Proof/Machine/Advance.lean ====
section
/-!
DEFINITION. ADVANCE (43_advance.md R160 to R178): one handler a command, chosen by STATE at its start.
The handlers take the command's draws as arguments.
-/

namespace Sys2Proof.Machine

/-- The periodic trigger is due: an interval is configured and has elapsed (R161). -/
def intervalDue (now : Word) (s : State) : Bool :=
  s.intervalMs != 0#24 && decide (s.intervalMs.toNat ≤ (elapsed now s).toNat)

/-- idle(now) (R161). -/
def idleHandler (now : Word) (s : State) : State :=
  if intervalDue now s then setState .triggering s else s

/-- Step 2's action: P_INIT with PCFG and the current pins (R165). -/
def initAction (s : State) : Action :=
  .pInit s.config.pcfg s.pinTrig s.pinEcho s.pinAux1 s.pinAux2

/-- Step 4: BUFREQ <- 0, both buffers zeroed, TX[0] <- TRIGGER_WORD (R166). -/
def prepareCycle (s : State) : State :=
  { s with
    bufreq := 0#32
    rx := Memory.zeroed
    tx := Memory.zeroed.writeIn s.numSamples.toNat 0 s.config.triggerWord }

/-- Step 5's action: P_START over NUM_SAMPLES / 2 transfer units (R167). -/
def startAction (s : State) : Action := .pStart (s.numSamples / 2#32)

/-- A failed TRIGGERING step records its error and returns to IDLE (R165, R168). -/
def triggerFailed (cause : Cause) (s : State) : State :=
  setState .idle (record .error cause 0#32 0#32 s)

/-- Step 7: PERIPH <- RUNNING, START_MS <- now, STATE <- SAMPLING (R169). -/
def enterSampling (now : Word) (s : State) : State :=
  { s with periph := .running, startMs := now, state := .sampling }

/-- triggering(now) with buffers allocated (R162; ALLOC = 0 is R163, in execAdvance). -/
def triggeringHandler (d : Draws) (s : State) : State :=
  let inited := emit (initAction s) s
  if d.initOk then
    let prepared := prepareCycle (setPeriph .init inited)
    let started := emit (startAction prepared) prepared
    if d.startOk then enterSampling d.nowMs started
    else triggerFailed .startFail started
  else triggerFailed .initFail inited

/-- The SAMPLING exit's two actions, in order: deinitialize, then force the trigger pin low (R172). -/
def samplingExit (s : State) : State :=
  let gone := setPeriph .uninit (emit .pUninit s)
  emit (.gpioWrite gone.pinTrig false) gone

/-- BUFREQ has reached BUFS_FOR_COMPLETE (R170, R174). -/
def transferComplete (s : State) : Bool := decide (s.config.bufsForComplete ≤ s.bufreq.toNat)

/-- The safety timeout has elapsed (R170, R173). -/
def timedOut (now : Word) (s : State) : Bool :=
  decide (s.config.samplingTimeoutMs ≤ (elapsed now s).toNat)

/-- The success record: N and N * SOUND_HALF_SPEED (R174). -/
def recordSuccess (s : State) : State :=
  record .success .none (BitVec.ofNat 32 (echoSum s))
    (BitVec.ofNat 32 (distanceUm s.config (echoSum s))) s

/-- sampling(now): one snapshot of BUFREQ decides (R170 to R174). -/
def samplingHandler (now : Word) (s : State) : State :=
  if transferComplete s then setState .idle (recordSuccess (samplingExit s))
  else if timedOut now s then
    setState .idle (record .error .timeout 0#32 0#32 (samplingExit s))
  else s

/-- DATA of ADVANCE's response: STATE after the handler (R175). -/
def answerState (s : State) : State := succeed (s.state.code.setWidth 16) s

/-- ADVANCE (R160): draw once, run one handler, answer. With no buffers the TRIGGERING handler raises
F_NOBUF and does nothing else (R163). -/
def execAdvance (s : State) : StepResult :=
  command (fun s =>
    match s.state with
    | .idle => answerState (idleHandler s.draws.nowMs (redraw s))
    | .triggering =>
      if s.alloc then answerState (triggeringHandler s.draws (redraw s))
      else faultCommand .nobuf (redraw s)
    | .sampling => answerState (samplingHandler s.draws.nowMs (redraw s))) s

end Sys2Proof.Machine
end

