-- ==== Sys2Proof/Machine/Configuration.lean ====
section
/-!
DEFINITION. The configuration commands (41_configuration.md R120 to R126). Each writes one field in
IDLE and is refused with BUSY otherwise; any value is taken here and checked only at SETUP.
-/

namespace Sys2Proof.Machine

/-- CFG_TRIG: reg[CFG_PINS].TRIG <- pin (R120). -/
def execCfgTrig (pin : Pin) (s : State) : StepResult :=
  configure (fun s => { s with pinTrig := pin }) s

/-- CFG_ECHO: reg[CFG_PINS].ECHO <- pin (R121). -/
def execCfgEcho (pin : Pin) (s : State) : StepResult :=
  configure (fun s => { s with pinEcho := pin }) s

/-- CFG_AUX1: reg[CFG_PINS].AUX1 <- pin (R122). -/
def execCfgAux1 (pin : Pin) (s : State) : StepResult :=
  configure (fun s => { s with pinAux1 := pin }) s

/-- CFG_AUX2: reg[CFG_PINS].AUX2 <- pin (R123). -/
def execCfgAux2 (pin : Pin) (s : State) : StepResult :=
  configure (fun s => { s with pinAux2 := pin }) s

/-- CFG_RANGE: reg[CFG_RANGE_MM] <- mm (R124). -/
def execCfgRange (mm : U24) (s : State) : StepResult :=
  configure (fun s => { s with rangeMm := mm }) s

/-- CFG_INTERVAL: reg[CFG_INTERVAL_MS] <- ms (R125). -/
def execCfgInterval (ms : U24) (s : State) : StepResult :=
  configure (fun s => { s with intervalMs := ms }) s

/-- CFG_CALLBACK: reg[CFG_FLAGS].CB_EN <- en (R126). -/
def execCfgCallback (en : Bool) (s : State) : StepResult :=
  configure (fun s => { s with cbEn := en }) s

end Sys2Proof.Machine
end

