-- ==== Sys2Proof/Machine/Results.lean ====
section
/-!
DEFINITION. GET_RESULT (45_results.md R213, R214). The record operation is in Machine/Ops.lean.
-/

namespace Sys2Proof.Machine

/-- GET_RESULT: respond(1, NONE, RESULT.STATUS); allowed in every state (R213). -/
def execGetResult (s : State) : StepResult :=
  command (fun s => succeed (s.resultStatus.code.setWidth 16) s) s

/-- The source's DistanceResult (R14, R214): the distance in metres is an exact rational. -/
structure DistanceResult where
  status         : ResultStatus
  distanceMeters : Rat
deriving DecidableEq, Repr

/-- Whole micrometres in metres: DIST_UM / 10^6, the exact quotient (R38, R194, R214). -/
def metersOfUm (um : Word) : Rat := (um.toNat : Rat) / 10 ^ 6

/-- The value of the source's getLastResult(): RESULT.STATUS and RESULT_DIST_UM / 10^6 (R214). The host
obtains it by `lastResultLines` (Machine/HostProgram.lean). -/
def lastResult (s : State) : DistanceResult :=
  { status := s.resultStatus, distanceMeters := metersOfUm s.resultDistUm }

end Sys2Proof.Machine
end

