-- ==== Sys2Proof/Machine/SetupTrigger.lean ====
section
/-!
DEFINITION. SETUP and SAMPLE_ONCE (42_setup_and_trigger.md R140 to R146).
-/

namespace Sys2Proof.Machine

/-- pins_ok: each identifier is below NUM_PINS, and the four are pairwise distinct (R141). -/
def pinsOk (c : Config) (t e a1 a2 : Pin) : Bool :=
  decide (t.toNat < c.numPins) && decide (e.toNat < c.numPins)
    && decide (a1.toNat < c.numPins) && decide (a2.toNat < c.numPins)
    && t != e && t != a1 && t != a2 && e != a1 && e != a2 && a1 != a2

/-- num_samples(mm) = LEADING_OVERHEAD_SAMPLES + floor(mm * SAMPLES_PER_METER / 1000) *
WORDS_PER_RANGE_UNIT, exactly (R142). -/
def numSamplesFor (c : Config) (mm : Nat) : Nat :=
  c.leadingOverheadSamples + mm * c.samplesPerMeter / 1000 * c.wordsPerRangeUnit

/-- allocate(n): two buffers of n words with unspecified contents, NUM_SAMPLES <- n, ALLOC <- 1 (R143,
U9; log 9). -/
def allocate (n : Nat) (s : State) : State :=
  { s with
    alloc := true
    numSamples := BitVec.ofNat 32 n
    rx := { cells := [], fill := .unspecified s.freeIx }
    tx := { cells := [], fill := .unspecified (s.freeIx + 1) }
    freeIx := s.freeIx + 2 }

/-- configure_pins: the GPIO driver's five actions, in R144's order. -/
def configurePins (t e a1 a2 : Pin) (s : State) : State :=
  emit (.gpioMode a2 .output) (emit (.gpioMode a1 .output) (emit (.gpioMode e .input)
    (emit (.gpioWrite t false) (emit (.gpioMode t .output) s))))

/-- SETUP's last two lines: configure the pins and answer (R140). -/
def setupDone (s : State) : State :=
  succeed 0#16 (configurePins s.pinTrig s.pinEcho s.pinAux1 s.pinAux2 s)

/-- SETUP after its CONFIG and BUSY checks: the length n is kept, refused or allocated (R140, R142,
R143). -/
def setupBuffers (n : Nat) (s : State) : State :=
  if s.alloc then
    if n = s.numSamples.toNat then setupDone s else faultCommand .resize s
  else if s.config.bufCapacityWords < n then reject .alloc s
  else setupDone (allocate n s)

/-- SETUP (R140): CONFIG before BUSY (R252). -/
def execSetup (s : State) : StepResult :=
  command (fun s =>
    if pinsOk s.config s.pinTrig s.pinEcho s.pinAux1 s.pinAux2 then
      whenIdle (fun s => setupBuffers (numSamplesFor s.config s.rangeMm.toNat) s) s
    else reject .config s) s

/-- SAMPLE_ONCE: IDLE to TRIGGERING, no peripheral work, ALLOC not checked (R146). -/
def execSampleOnce (s : State) : StepResult :=
  command (whenIdle fun s => succeed 0#16 (setState .triggering s)) s

end Sys2Proof.Machine
end

