-- ==== Sys2Proof/Machine/Dispatch.lean ====
section
/-!
DEFINITION. One arm per command of 30_encoding.md R92: a direct call of its meaning.
-/

namespace Sys2Proof.Machine

/-- The command rule named by a row of R92 (30_encoding.md R93, last line). -/
def exec (i : Instr) (s : State) : Host.Outcome State Fault Refusal :=
  match i with
  | .cfgTrig pin => Sys2Proof.Machine.execCfgTrig pin s
  | .cfgEcho pin => Sys2Proof.Machine.execCfgEcho pin s
  | .cfgAux1 pin => Sys2Proof.Machine.execCfgAux1 pin s
  | .cfgAux2 pin => Sys2Proof.Machine.execCfgAux2 pin s
  | .cfgRange mm => Sys2Proof.Machine.execCfgRange mm s
  | .cfgInterval ms => Sys2Proof.Machine.execCfgInterval ms s
  | .cfgCallback en => Sys2Proof.Machine.execCfgCallback en s
  | .setup => Sys2Proof.Machine.execSetup s
  | .sampleOnce => Sys2Proof.Machine.execSampleOnce s
  | .advance => Sys2Proof.Machine.execAdvance s
  | .getResult => Sys2Proof.Machine.execGetResult s
  | .popcnt16 v => Sys2Proof.Machine.execPopcnt16 v s

end Sys2Proof.Machine
end

