-- ==== Sys2Proof/Machine/Monitor.lean ====
section
/-!
DEFINITION. The peripheral's own steps: the BUF_NEEDED notification (46_monitor.md R230 to R234) and its
writes into RX (20_memory.md R67, R68).
-/

namespace Sys2Proof.Machine

/-- BUFREQ + 1, saturating at 2^32 - 1 (R230). -/
def saturatingIncr (w : Word) : Word := if w = 0xFFFFFFFF#32 then w else w + 1#32

/-- buf_needed() (R230): ignored while faulted; counts; the notification that reaches
BUFS_FOR_COMPLETE while PERIPH = RUNNING issues P_STOP (R231). "old + 1" is exact. DEDUCED, safe:
log 14. -/
def bufNeeded (s : State) : State :=
  if s.faulted then s
  else
    let counted := { s with bufreq := saturatingIncr s.bufreq }
    if s.bufreq.toNat + 1 = s.config.bufsForComplete ∧ s.periph = .running then
      setPeriph .stopped (emit .pStop counted)
    else counted

/-- The peripheral writes RX only between a successful P_START and the next P_STOP or P_UNINIT, which
is PERIPH = RUNNING (R68); any other write is none of its actions and changes nothing. DESIGN CHOICE,
unsafe: log 8. -/
def periphWrite (write : Memory → Memory) (s : State) : State :=
  if s.periph = .running then { s with rx := write s.rx } else s

/-- The peripheral writes word i of RX (R67, R68). -/
def periphWriteWord (i : Nat) (v : Sample) (s : State) : State :=
  periphWrite (fun m => m.writeIn s.numSamples.toNat i v) s

/-- The peripheral writes transfer unit u of RX (R65, R67, R68). -/
def periphWriteUnit (u : Nat) (v : Word) (s : State) : State :=
  periphWrite (fun m => m.writeUnit s.numSamples.toNat u v) s

end Sys2Proof.Machine
end

