-- ==== Sys2Proof/Machine/Operands.lean ====
section
/-!
DEFINITION. The values commands and the host read (30_encoding.md R91, R94: fields are zero-extended,
register access is fixed per command): the register words of 10_state.md R23 to R42 and R48, and the
window's offsets.
-/

namespace Sys2Proof.Machine

/-- One register word from its fields, the most significant first (R10's notation): each `zext` places
a field at its low bit. -/
def fieldAt {n : Nat} (v : BitVec n) (lo : Nat) : Word := v.setWidth 32 <<< lo

/-- RESP: OK at 0, ERR at 15:8, DATA at 31:16 (R25, R95). -/
def respWord (s : State) : Word :=
  fieldAt s.resp.data 16 ||| fieldAt s.resp.err.code 8 ||| fieldAt (BitVec.ofBool s.resp.ok) 0

/-- STATUS: STATE at 1:0, ALLOC at 2, PERIPH at 5:4, F_RESIZE at 8, F_NOBUF at 9 (R26). -/
def statusWord (s : State) : Word :=
  fieldAt s.state.code 0 ||| fieldAt (BitVec.ofBool s.alloc) 2 ||| fieldAt s.periph.code 4
    ||| fieldAt (BitVec.ofBool s.fResize) 8 ||| fieldAt (BitVec.ofBool s.fNobuf) 9

/-- RESULT: STATUS at 1:0, CAUSE at 7:4, SEQ at 31:16 (R34). -/
def resultWord (s : State) : Word :=
  fieldAt s.resultStatus.code 0 ||| fieldAt s.resultCause.code 4 ||| fieldAt s.resultSeq 16

/-- CFG_PINS: TRIG at 7:0, ECHO at 15:8, AUX1 at 23:16, AUX2 at 31:24 (R39). -/
def pinsWord (s : State) : Word :=
  fieldAt s.pinTrig 0 ||| fieldAt s.pinEcho 8 ||| fieldAt s.pinAux1 16 ||| fieldAt s.pinAux2 24

/-- The registers of the window (R23); `reserved` stands for offsets 0x34, 0x38 and 0x3C. -/
inductive Reg where
  | CMD | RESP | STATUS | BUFREQ | NUM_SAMPLES | START_MS | RESULT | RESULT_COUNT | RESULT_DIST_UM
  | CFG_PINS | CFG_RANGE_MM | CFG_INTERVAL_MS | CFG_FLAGS
  | reserved (offset : Nat)
deriving DecidableEq, Repr

/-- The register at a byte offset of the window (R23). -/
def regAt (off : Nat) : Reg :=
  match off with
  | 0x00 => .CMD
  | 0x04 => .RESP
  | 0x08 => .STATUS
  | 0x0C => .BUFREQ
  | 0x10 => .NUM_SAMPLES
  | 0x14 => .START_MS
  | 0x18 => .RESULT
  | 0x1C => .RESULT_COUNT
  | 0x20 => .RESULT_DIST_UM
  | 0x24 => .CFG_PINS
  | 0x28 => .CFG_RANGE_MM
  | 0x2C => .CFG_INTERVAL_MS
  | 0x30 => .CFG_FLAGS
  | n => .reserved n

/-- The offset of a register (R23). -/
def Reg.offset : Reg → Nat
  | .CMD => 0x00
  | .RESP => 0x04
  | .STATUS => 0x08
  | .BUFREQ => 0x0C
  | .NUM_SAMPLES => 0x10
  | .START_MS => 0x14
  | .RESULT => 0x18
  | .RESULT_COUNT => 0x1C
  | .RESULT_DIST_UM => 0x20
  | .CFG_PINS => 0x24
  | .CFG_RANGE_MM => 0x28
  | .CFG_INTERVAL_MS => 0x2C
  | .CFG_FLAGS => 0x30
  | .reserved n => n

/-- What a host read of a register returns (R62): CMD and the reserved offsets read 0 (R24, R48). -/
def readReg (r : Reg) (s : State) : Word :=
  match r with
  | .CMD => 0#32
  | .RESP => respWord s
  | .STATUS => statusWord s
  | .BUFREQ => s.bufreq
  | .NUM_SAMPLES => s.numSamples
  | .START_MS => s.startMs
  | .RESULT => resultWord s
  | .RESULT_COUNT => s.resultCount
  | .RESULT_DIST_UM => s.resultDistUm
  | .CFG_PINS => pinsWord s
  | .CFG_RANGE_MM => s.rangeMm.setWidth 32
  | .CFG_INTERVAL_MS => s.intervalMs.setWidth 32
  | .CFG_FLAGS => fieldAt (BitVec.ofBool s.cbEn) 0
  | .reserved _ => 0#32

/-- The window is sixteen 32-bit registers (R60). -/
def windowBytes : Nat := 0x40

/-- The offset a host access reaches, or why the host is stuck: R61's three conditions, and "Addresses
outside the window are not the PWS's". Addresses are numbers without a bus width, and REG_BASE + off does
not wrap. DESIGN CHOICE, unsafe where a platform's window passes the top of its bus: log 20. -/
def windowOffset (c : Config) (addr width : Nat) : Except Fault Nat :=
  if addr < c.regBase ∨ c.regBase + windowBytes ≤ addr then .error .outsideWindow
  else if width = 4 ∧ addr % 4 = 0 ∧ (addr - c.regBase) % 4 = 0 then .ok (addr - c.regBase)
  else .error .busError

end Sys2Proof.Machine
end

