-- ==== Sys2Proof/Machine/Bus.lean ====
section
/-!
DEFINITION. The host's port and the other stimuli: execute (30_encoding.md R93), host reads and writes
of the window (20_memory.md R61 to R63), and what each stimulus does (00_scope.md R13).
-/

namespace Sys2Proof.Machine

/-- An illegal word: FAULTED if faulted (R93, R252), else respond(0, ILLEGAL, 0) and nothing else
(R97). -/
def illegalCommand (s : State) : StepResult := command (reject .illegal) s

/-- execute(w), one atomic step (R93). Each meaning starts with the FAULTED check itself. -/
def execute (w : Word) (s : State) : StepResult :=
  match decode w with
  | .ok i => exec i s
  | .error _ => illegalCommand s

/-- MemRead(addr, width): the host receives the register's value; nothing else changes (R61, R62). -/
def hostRead (addr width : Nat) (s : State) : StepResult :=
  match windowOffset s.config addr width with
  | .ok off => .next { s with busData := readReg (regAt off) s }
  | .error f => .fault f

/-- MemWrite(addr, width, v): CMD executes v; every other offset ignores it (R61, R63, R48). -/
def hostWrite (addr width : Nat) (v : Word) (s : State) : StepResult :=
  match windowOffset s.config addr width with
  | .ok off => if off = Reg.CMD.offset then execute v s else .next s
  | .error f => .fault f

/-- The step a stimulus causes (R13, R71). -/
def applyStimulus (e : Stimulus) (s : State) : StepResult :=
  match e with
  | .quiet => .next s
  | .hostRead addr width => hostRead addr width s
  | .hostWrite addr width v => hostWrite addr width v s
  | .bufNeeded => .next (bufNeeded s)
  | .rxWord i v => .next (periphWriteWord i v s)
  | .rxUnit u v => .next (periphWriteUnit u v s)
  | .present d => .next { s with draws := d }
  | .reset => .next (applyReset s)
  | .powerDown => .next (applyReset s)

/-- The next stimulus and the state that has taken it: the agenda's oldest, or a free value once the
agenda is empty (R253; log 4). -/
def takeStimulus (s : State) : Stimulus × State :=
  match s.agenda with
  | e :: rest => (e, { s with agenda := rest })
  | [] => (Config.freeStimulus s.freeIx, { s with freeIx := s.freeIx + 1 })

/-- One step under legal parameters. -/
def environmentStep (s : State) : StepResult :=
  applyStimulus (takeStimulus s).1 (takeStimulus s).2

/-- The host's write of a command word to CMD (R24). -/
def commandWrite (c : Config) (w : Word) : Stimulus := .hostWrite (c.regBase + Reg.CMD.offset) 4 w

end Sys2Proof.Machine
end

