-- ==== Sys2Proof/Machine/Step.lean ====
section
/-!
DEFINITION. One step of the machine. The PWS "fetches no instructions" (10_state.md R22): a command
runs when the host writes it to CMD, so `withFetchWord` schedules that write.
-/

namespace Sys2Proof.Machine

/-- One stimulus, one step (00_scope.md R13). "A model must refuse a configuration that breaks one" of
R8's constraints (log 3). -/
def step (s : State) : Host.Outcome State Fault Refusal :=
  if s.config.wf then environmentStep s else .refused .badConfiguration

/-- The state whose very next step is the host's write of the word w to CMD (log 4). -/
def State.withFetchWord (s : State) (nbits w : Nat) : State :=
  { s with agenda := commandWrite s.config (BitVec.ofNat 32 (w % 2 ^ nbits)) :: s.agenda }

end Sys2Proof.Machine
end

