-- ==== Sys2Proof/Machine/HostProgram.lean ====
section
/-!
DEFINITION. Host programs as the spec writes them: one access a line (30_encoding.md R98) and the
pseudo-instructions' expansions (R99). Loops are the host's own, so they carry their number of passes.
-/

namespace Sys2Proof.Machine

/-- A line of a host program (R98). -/
inductive HostLine where
  /-- `wr CMD, <mnemonic> [operand]`. -/
  | wr (line : AsmLine)
  /-- `rd <REGISTER>`. -/
  | rd (r : Reg)
deriving DecidableEq, Repr

/-- The bus access a line makes; none where it is an assembly error (R98). -/
def HostLine.stimulus (c : Config) : HostLine → Option Stimulus
  | .wr l => l.assemble.map fun i => commandWrite c (encode i)
  | .rd r => some (.hostRead (c.regBase + r.offset) 4)

/-- The four pin roles (R39). -/
inductive PinRole where
  | trig | echo | aux1 | aux2
deriving DecidableEq, Repr

/-- A role's CFG command (R120 to R123). -/
def PinRole.mnemonic : PinRole → Mnemonic
  | .trig => .CFG_TRIG
  | .echo => .CFG_ECHO
  | .aux1 => .CFG_AUX1
  | .aux2 => .CFG_AUX2

/-- The pseudo-instructions of R99. A range in metres is given as metres and thousandths, and a host
loop as its number of passes. DESIGN CHOICE, safe: log 16. -/
inductive Pseudo where
  | cfgPins (t e a1 a2 : Nat)
  | cfgRangeM (metres thousandths : Nat)
  | unsetPin (role : PinRole)
  | waitCycle (passes : Nat)
  | measure (passes : Nat)
deriving DecidableEq, Repr

/-- One pass of WAIT_CYCLE's loop: `wr CMD, ADVANCE; rd STATUS` (R99). -/
def waitPass : List HostLine := [.wr ⟨.ADVANCE, none⟩, .rd .STATUS]

/-- The source's getLastResult() as the host's accesses: GET_RESULT, then the three reads (R214). -/
def lastResultLines : List HostLine :=
  [.wr ⟨.GET_RESULT, none⟩, .rd .RESULT, .rd .RESULT_COUNT, .rd .RESULT_DIST_UM]

/-- A pass repeated. -/
def waitPasses : Nat → List HostLine
  | 0 => []
  | k + 1 => waitPass ++ waitPasses k

/-- The expansions of R99. -/
def Pseudo.expand : Pseudo → List HostLine
  | .cfgPins t e a1 a2 =>
    [.wr ⟨.CFG_TRIG, some t⟩, .wr ⟨.CFG_ECHO, some e⟩, .wr ⟨.CFG_AUX1, some a1⟩,
      .wr ⟨.CFG_AUX2, some a2⟩]
  | .cfgRangeM m k => [.wr ⟨.CFG_RANGE, some (m * 1000 + k)⟩]
  | .unsetPin r => [.wr ⟨r.mnemonic, some 0xFF⟩]
  | .waitCycle k => waitPasses k
  | .measure k =>
    [.wr ⟨.SAMPLE_ONCE, none⟩] ++ waitPasses k
      ++ [.rd .RESULT, .rd .RESULT_COUNT, .rd .RESULT_DIST_UM]

end Sys2Proof.Machine
end

