-- ==== Sys2Proof/Safety.lean ====
section
/-!
DEFINITION. What claims about the PWS are stated in: the invariant of every reachable state (10_state.md
R50 with the facts other rules derive), the premise that no fault bit is set (60_exceptions.md R255),
the clock premise (70_reset_and_hazards.md R291) and the hazard bounds no step reads (R288, R289).
-/

namespace Sys2Proof.Machine

/-! ### The invariant -/

/-- R50 items 1 and 4: the sequencer's state and the peripheral record agree. -/
abbrev State.sequencerOk (s : State) : Prop :=
  (s.state = .sampling → s.alloc = true ∧ (s.periph = .running ∨ s.periph = .stopped))
    ∧ (s.state ≠ .sampling → s.periph = .uninit ∨ s.periph = .init)

/-- R50 items 2 and 3: NUM_SAMPLES with and without buffers. -/
abbrev State.lengthOk (s : State) : Prop :=
  (s.alloc = false → s.numSamples = 0#32)
    ∧ (s.alloc = true → s.config.leadingOverheadSamples ≤ s.numSamples.toNat
        ∧ s.numSamples.toNat ≤ s.config.bufCapacityWords ∧ s.numSamples.toNat % 4 = 0)

/-- R255: F_RESIZE is raised only in IDLE with buffers, F_NOBUF only in TRIGGERING without. -/
abbrev State.faultsOk (s : State) : Prop :=
  (s.fResize = true → s.state = .idle ∧ s.alloc = true)
    ∧ (s.fNobuf = true → s.state = .triggering ∧ s.alloc = false)

/-- R36, R38, R210, R215: only SUCCESS and ERROR are recorded, with the cause, the count and the exact
distance that go with them. -/
abbrev State.resultOk (s : State) : Prop :=
  (s.resultStatus = .success ∧ s.resultCause = .none
      ∨ s.resultStatus = .error ∧ s.resultCause ≠ .none ∧ s.resultCount = 0#32)
    ∧ s.resultCount.toNat ≤ 16 * s.config.bufCapacityWords
    ∧ s.resultDistUm.toNat = s.resultCount.toNat * s.config.soundHalfSpeed

/-- R230, R231: while the peripheral runs the transfer is not complete, and it was stopped because it
was. The last case is a BUFS_FOR_COMPLETE no 32-bit count reaches. -/
abbrev State.monitorOk (s : State) : Prop :=
  (s.periph = .running → s.bufreq.toNat < s.config.bufsForComplete)
    ∧ (s.periph = .stopped → s.config.bufsForComplete ≤ s.bufreq.toNat
        ∨ 2 ^ 32 ≤ s.config.bufsForComplete)

/-- The listed bytes of a buffer lie inside its n words. -/
def Memory.within (m : Memory) (n : Nat) : Bool := m.cells.all fun c => decide (c.1 < 2 * n)

/-- Both buffers are canonical and no longer than NUM_SAMPLES words; in SAMPLING they have been zeroed
since they were allocated (R43, R64). -/
abbrev State.buffersOk (s : State) : Prop :=
  s.rx.wf = true ∧ s.tx.wf = true
    ∧ s.rx.within s.numSamples.toNat = true ∧ s.tx.within s.numSamples.toNat = true
    ∧ (s.state = .sampling → s.rx.fill = .zero ∧ s.tx.fill = .zero)

/-- The GPIO port holds NUM_PINS pins (R45). -/
abbrev State.portOk (s : State) : Prop :=
  s.pinMode.length = s.config.numPins ∧ s.pinLevel.length = s.config.numPins

/-- The invariant. -/
abbrev State.Inv (s : State) : Prop :=
  s.config.wf = true ∧ s.sequencerOk ∧ s.lengthOk ∧ s.faultsOk ∧ s.resultOk ∧ s.monitorOk
    ∧ s.buffersOk ∧ s.portOk

/-! ### Runs -/

/-- A platform switched on with a schedule of stimuli; free ones follow (log 4). -/
def State.boot (c : Config) (schedule : List Stimulus) : State :=
  { State.resetWith c with agenda := schedule }

/-- A state some run reaches. -/
def State.Reachable (s : State) : Prop :=
  ∃ c schedule k, c.wf = true ∧ Sys2Proof.core.run k (State.boot c schedule) = .next s

/-- "A model must take 'no fault bit set' as a premise of every claim" (R255). -/
abbrev State.usable (s : State) : Prop := s.faulted = false

/-! ### Premises and hazards that no step reads -/

/-- The clock word at a real time in ms (R46). -/
def clockAt (ms : Nat) : Word := BitVec.ofNat 32 ms

/-- R291's premise on two successive clock samples, taken at real times t and t'. No step needs it.
DEDUCED, safe: log 12. -/
abbrev clockAdvances (t t' : Nat) : Prop := t ≤ t' ∧ t' - t < 2 ^ 32

/-- How long a transfer takes, in µs, if words are shifted back to back (R288). -/
def transferUs (c : Config) (words : Nat) : Nat := 16 * words * c.bitPeriodUs

/-- R288: the second notification can come before the timeout. -/
def fitsTimeout (c : Config) (words : Nat) : Bool :=
  decide (transferUs c words < 1000 * c.samplingTimeoutMs)

/-- The trigger pulse's width in µs: the set bits of TRIGGER_WORD (R289, R296). -/
def triggerPulseUs (c : Config) : Nat := popcount16 c.triggerWord * c.bitPeriodUs

/-- R197: the largest distance the PWS can report, in µm; not the configured range. -/
def largestDistanceUm (s : State) : Nat := 16 * s.numSamples.toNat * s.config.soundHalfSpeed

/-- The host has changed no pin since SETUP: the pins are still the ones it configured (R286). -/
abbrev State.pinsConfigured (s : State) : Prop :=
  pinsOk s.config s.pinTrig s.pinEcho s.pinAux1 s.pinAux2 = true
    ∧ s.pinMode[s.pinTrig.toNat]? = some .output ∧ s.pinMode[s.pinEcho.toNat]? = some .input
    ∧ s.pinMode[s.pinAux1.toNat]? = some .output ∧ s.pinMode[s.pinAux2.toNat]? = some .output

end Sys2Proof.Machine
end

