-- ==== Sys2Proof/Certificates/Slice0/Obligations.lean ====
section
/-!
DEFINITION. Statements about the PWS, each from the rules of spec/ its entry in OBLIGATIONS.json cites.
A next state is written as the record the rules give, field by field, so that every field not named
is said to be unchanged: the frame stands in the equation. ADVANCE uses up the environment's draws;
`usedDraws` names the two model fields this changes (log 5).
-/

open Sys2Proof Sys2Proof.Machine

/-! ### Words the statements share -/

/-- The response of a command that succeeds with a value (R95). -/
abbrev Sys2Proof.Machine.answered (data : BitVec 16) : Resp := { ok := true, err := .none, data := data }

/-- The response of a command that fails with a code (R95). -/
abbrev Sys2Proof.Machine.refusedWith (err : ErrCode) : Resp := { ok := false, err := err, data := 0#16 }

/-- s with the environment's draws used up by an ADVANCE: the next ones are free (R46; log 5). -/
abbrev Sys2Proof.Machine.usedDraws (s : State) : State :=
  { s with draws := Config.freeDraws s.freeIx, freeIx := s.freeIx + 1 }

/-- The result event where the callback is registered (R210, R212). -/
abbrev Sys2Proof.Machine.eventIf (en : Bool) (status : ResultStatus) (n dist : Word) : List Action :=
  if en then [.resultEvent status n dist] else []

/-- The sum over every word of RX of its set bits (R193), written as a list sum. -/
abbrev Sys2Proof.Machine.setBitsOfRx (s : State) : Nat :=
  ((List.range s.numSamples.toNat).map fun i => popcount16 (s.rx.readSample i)).sum

/-- The time since START_MS modulo 2^32 (R161, R170), in exact arithmetic. -/
abbrev Sys2Proof.Machine.msSinceStart (now : Word) (s : State) : Nat :=
  (now.toNat + 2 ^ 32 - s.startMs.toNat) % 2 ^ 32

/-- The stimulus a step takes is a reset or a power-down (R266, R280). -/
abbrev Sys2Proof.Machine.takesReset (s : State) : Prop :=
  (takeStimulus s).1 = .reset ∨ (takeStimulus s).1 = .powerDown

/-- A host access R61 allows: one aligned 32-bit register of the window. -/
abbrev Sys2Proof.Machine.inWindow (c : Config) (addr width : Nat) : Prop :=
  c.regBase ≤ addr ∧ addr < c.regBase + 0x40 ∧ width = 4 ∧ addr % 4 = 0

/-- The four accesses of the source's getLastResult() (R214). -/
abbrev Sys2Proof.Machine.lastResultAccesses (c : Config) : List Stimulus :=
  [.hostWrite c.regBase 4 0x13000000#32, .hostRead (c.regBase + 0x18) 4,
    .hostRead (c.regBase + 0x1C) 4, .hostRead (c.regBase + 0x20) 4]

/-- One pass of WAIT_CYCLE as the host's accesses (R99). -/
abbrev Sys2Proof.Machine.waitAccesses (c : Config) : List (Option Stimulus) :=
  [some (.hostWrite c.regBase 4 0x12000000#32), some (.hostRead (c.regBase + 0x08) 4)]

/-- No row of R92's table matches the word. -/
abbrev Sys2Proof.Machine.matchesNoRow (w : Word) : Prop :=
  ∀ r ∈ opcodeRows, w &&& r.mask ≠ r.pattern

/-- The length SETUP computes from the configured range (R142). -/
abbrev Sys2Proof.Machine.setupLength (s : State) : Nat := numSamplesFor s.config s.rangeMm.toNat

/-- SETUP's pin check on the configured pins (R141). -/
abbrev Sys2Proof.Machine.setupPinsOk (s : State) : Bool :=
  pinsOk s.config s.pinTrig s.pinEcho s.pinAux1 s.pinAux2

/-- The five actions of R144 on the configured pins. -/
abbrev Sys2Proof.Machine.setupActions (s : State) : List Action :=
  [.gpioMode s.pinTrig .output, .gpioWrite s.pinTrig false, .gpioMode s.pinEcho .input,
    .gpioMode s.pinAux1 .output, .gpioMode s.pinAux2 .output]

/-- The pin modes after R144's actions on pins that are all valid. -/
abbrev Sys2Proof.Machine.setupModes (s : State) : List PinMode :=
  (((s.pinMode.set s.pinTrig.toNat .output).set s.pinEcho.toNat .input).set s.pinAux1.toNat
    .output).set s.pinAux2.toNat .output

/-- The levels after the trigger pin was written low; a pin at or above NUM_PINS is no pin (R263). -/
abbrev Sys2Proof.Machine.trigLowLevels (s : State) : List PinLevel :=
  if s.pinTrig.toNat < s.config.numPins then s.pinLevel.set s.pinTrig.toNat .low else s.pinLevel

/-! ### Encoding -/

/-- R98's and 95_test_vectors.md's words, one or more a command, and four illegal ones. -/
def Obligations.DecodeSpecExampleWords : Prop :=
  decode 0x01000005#32 = .ok (.cfgTrig 5#8) ∧ decode 0x02000006#32 = .ok (.cfgEcho 6#8)
    ∧ decode 0x03000007#32 = .ok (.cfgAux1 7#8) ∧ decode 0x04000008#32 = .ok (.cfgAux2 8#8)
    ∧ decode 0x050007D0#32 = .ok (.cfgRange 2000#24)
    ∧ decode 0x060003E8#32 = .ok (.cfgInterval 1000#24)
    ∧ decode 0x07000001#32 = .ok (.cfgCallback true) ∧ decode 0x10000000#32 = .ok .setup
    ∧ decode 0x11000000#32 = .ok .sampleOnce ∧ decode 0x12000000#32 = .ok .advance
    ∧ decode 0x13000000#32 = .ok .getResult ∧ decode 0x2000AAAA#32 = .ok (.popcnt16 0xAAAA#16)
    ∧ decode 0x00000000#32 = .error (.unknownOpc 0#8) ∧ decode 0xFF000000#32 = .error (.unknownOpc 255#8)
    ∧ decode 0x01000100#32 = .error (.mbzSet 1#8) ∧ decode 0x20010000#32 = .error (.mbzSet 32#8)

/-- Every command, with every operand its field admits, decodes from its own word. -/
def Obligations.DecodeOfEncodeIsTheCommand : Prop :=
  ∀ i : Instr, decode (encode i) = .ok i

/-- A legal word is the only word of its command: no bit is ignored (R91, R97, D6). -/
def Obligations.EncodeOfDecodeIsTheWord : Prop :=
  ∀ (w : Word) (i : Instr), decode w = .ok i → encode i = w

/-- R92: the decoder reads exactly the words of the match and mask table, as the row's mnemonic, and no
two rows match one word. -/
def Obligations.DecoderFollowsOpcodeMap : Prop :=
  (∀ (w : Word) (i : Instr), decode w = .ok i →
      ∃ r ∈ opcodeRows, w &&& r.mask = r.pattern ∧ r.mnemonic = i.toAsm.mnemonic)
    ∧ (∀ w : Word, ∀ r ∈ opcodeRows, w &&& r.mask = r.pattern →
        ∃ i, decode w = .ok i ∧ i.toAsm.mnemonic = r.mnemonic)
    ∧ (∀ w : Word, ∀ r ∈ opcodeRows, ∀ r' ∈ opcodeRows,
        w &&& r.mask = r.pattern → w &&& r'.mask = r'.pattern → r = r')

/-- R98: a line whose operand fits its field names one command, whose word decodes back to it with the
operand as written; a line whose operand does not fit, is missing or is superfluous is an error. -/
def Obligations.AssemblyNeverTruncates : Prop :=
  ∀ l : AsmLine,
    (l.wf = true → ∃ i, l.assemble = some i ∧ i.toAsm = l ∧ decode (encode i) = .ok i)
      ∧ (l.wf = false → l.assemble = none)

/-! ### Commands in general -/

/-- A write of a command word to CMD, the oldest scheduled stimulus, runs the decoded command (R24,
R93); `withFetchWord` schedules such a write. -/
def Obligations.StepRunsTheDecodedCommand : Prop :=
  (∀ (s : State) (w : Word) (i : Instr) (rest : List Stimulus),
      s.config.wf = true → decode w = .ok i →
      s.agenda = .hostWrite s.config.regBase 4 w :: rest →
      step s = exec i { s with agenda := rest })
    ∧ (∀ (s : State) (w : Word) (i : Instr), s.config.wf = true → decode w = .ok i →
        step (s.withFetchWord 32 w.toNat) = exec i s)

/-- R93's procedure: FAULTED first, then ILLEGAL, then the command's rule. -/
def Obligations.ExecuteChecksFaultThenLegality : Prop :=
  ∀ (s : State) (w : Word),
    (s.faulted = true → execute w s = .next { s with resp := refusedWith .faulted })
      ∧ (s.faulted = false → matchesNoRow w →
          execute w s = .next { s with resp := refusedWith .illegal })
      ∧ (s.faulted = false → ∀ r ∈ opcodeRows, w &&& r.mask = r.pattern →
          ∃ i, i.toAsm.mnemonic = r.mnemonic ∧ encode i = w ∧ execute w s = exec i s)

/-- R97: an unlisted OPC (0x00 among them, so the all-zero word) or a listed one with an MBZ bit set is
illegal: it changes no state but RESP and emits nothing, and the PWS stays usable. -/
def Obligations.IllegalWordOnlyAnswers : Prop :=
  (∀ w : Word, (∀ r ∈ opcodeRows, w.extractLsb' 24 8 ≠ r.pattern.extractLsb' 24 8) → matchesNoRow w)
    ∧ (∀ w : Word, ∀ r ∈ opcodeRows, w.extractLsb' 24 8 = r.pattern.extractLsb' 24 8 →
        w &&& r.mask &&& 0x00FFFFFF#32 ≠ 0#32 → matchesNoRow w)
    ∧ (∀ w : Word, matchesNoRow w →
        (∀ r ∈ opcodeRows, w.extractLsb' 24 8 ≠ r.pattern.extractLsb' 24 8)
          ∨ ∃ r ∈ opcodeRows, w.extractLsb' 24 8 = r.pattern.extractLsb' 24 8
              ∧ w &&& r.mask &&& 0x00FFFFFF#32 ≠ 0#32)
    ∧ matchesNoRow 0#32
    ∧ (∀ (s : State) (w : Word), s.faulted = false → matchesNoRow w →
        execute w s = .next { s with resp := refusedWith .illegal })

/-- R95: whatever the word and the state, execute answers a next state whose response keeps
"ok = 1 implies err = NONE, and ok = 0 implies err ≠ NONE and data = 0", packed as R95 says. -/
def Obligations.EveryCommandAnswers : Prop :=
  ∀ (s : State) (w : Word), ∃ t, execute w s = .next t
    ∧ (t.resp.ok = true → t.resp.err = .none)
    ∧ (t.resp.ok = false → t.resp.err ≠ .none ∧ t.resp.data = 0#16)
    ∧ respWord t = t.resp.data ++ t.resp.err.code ++ 0#7 ++ BitVec.ofBool t.resp.ok

/-- R255: while faulted every command, legal or not, answers FAULTED and does nothing else,
notifications are ignored, and reads work. -/
def Obligations.FaultedMachineOnlyAnswers : Prop :=
  ∀ s : State, s.faulted = true →
    (∀ i : Instr, exec i s = .next { s with resp := refusedWith .faulted })
      ∧ (∀ w : Word, execute w s = .next { s with resp := refusedWith .faulted })
      ∧ bufNeeded s = s
      ∧ (s.config.wf = true → ∀ off, off % 4 = 0 → off < 0x40 →
          hostRead (s.config.regBase + off) 4 s
            = .next { s with busData := readReg (regAt off) s })

/-! ### Configuration -/

/-- R120 to R123 in IDLE: the pin command's field takes any 8-bit value, RESP is OK, nothing else
changes. -/
def Obligations.PinCommandsWriteTheirField : Prop :=
  ∀ (s : State) (pin : Pin), s.faulted = false → s.state = .idle →
    exec (.cfgTrig pin) s = .next { s with pinTrig := pin, resp := answered 0#16 }
      ∧ exec (.cfgEcho pin) s = .next { s with pinEcho := pin, resp := answered 0#16 }
      ∧ exec (.cfgAux1 pin) s = .next { s with pinAux1 := pin, resp := answered 0#16 }
      ∧ exec (.cfgAux2 pin) s = .next { s with pinAux2 := pin, resp := answered 0#16 }

/-- R124 to R126 in IDLE: range, interval and callback take any value, RESP is OK, nothing else
changes. -/
def Obligations.ValueCommandsWriteTheirField : Prop :=
  ∀ (s : State) (u : U24) (en : Bool), s.faulted = false → s.state = .idle →
    exec (.cfgRange u) s = .next { s with rangeMm := u, resp := answered 0#16 }
      ∧ exec (.cfgInterval u) s = .next { s with intervalMs := u, resp := answered 0#16 }
      ∧ exec (.cfgCallback en) s = .next { s with cbEn := en, resp := answered 0#16 }

/-- 41_configuration.md and R146: outside IDLE these eight answer BUSY and change nothing else. -/
def Obligations.IdleOnlyCommandsAnswerBusy : Prop :=
  ∀ (s : State) (pin : Pin) (u : U24) (en : Bool), s.faulted = false → s.state ≠ .idle →
    ∀ i ∈ [Instr.cfgTrig pin, .cfgEcho pin, .cfgAux1 pin, .cfgAux2 pin, .cfgRange u,
        .cfgInterval u, .cfgCallback en, .sampleOnce],
      exec i s = .next { s with resp := refusedWith .busy }

/-- "Set once before setup; immutable during a sampling cycle" (41_configuration.md): a step that is no
reset leaves the configuration alone unless STATE is IDLE. That no step, reset included, changes the
parameters of R7 is the model's choice (log 1). -/
def Obligations.ConfigurationFixedDuringACycle : Prop :=
  ∀ s t : State, step s = .next t →
    t.config = s.config
      ∧ (s.state ≠ .idle → ¬ takesReset s →
          t.pinTrig = s.pinTrig ∧ t.pinEcho = s.pinEcho ∧ t.pinAux1 = s.pinAux1
            ∧ t.pinAux2 = s.pinAux2 ∧ t.rangeMm = s.rangeMm ∧ t.intervalMs = s.intervalMs
            ∧ t.cbEn = s.cbEn)

/-! ### SETUP and SAMPLE_ONCE -/

/-- R141: valid means below NUM_PINS, so never 0xFF, and the four are pairwise distinct. -/
def Obligations.PinsOkMeansValidAndDistinct : Prop :=
  ∀ (c : Config) (t e a1 a2 : Pin), c.wf = true →
    (pinsOk c t e a1 a2 = true ↔
        (∀ p ∈ [t, e, a1, a2], p.toNat < c.numPins) ∧ [t, e, a1, a2].Nodup)
      ∧ (pinsOk c t e a1 a2 = true → ∀ p ∈ [t, e, a1, a2], p ≠ 0xFF#8)

/-- R142: on every platform the length is LEADING_OVERHEAD_SAMPLES plus WORDS_PER_RANGE_UNIT times the
whole number u of range units, the greatest with 1000 * u ≤ mm * SAMPLES_PER_METER; under R8 it is a
multiple of 4 and at least the overhead. With the source's constants it is
152 + floor(mm * 6 / 125) * 4, at most 3221376 for any 24-bit range, and 536 for the default range. -/
def Obligations.BufferLengthFormula : Prop :=
  (∀ (c : Config) (mm : Nat), ∃ u,
      numSamplesFor c mm = c.leadingOverheadSamples + u * c.wordsPerRangeUnit
        ∧ 1000 * u ≤ mm * c.samplesPerMeter ∧ mm * c.samplesPerMeter < 1000 * (u + 1))
    ∧ (∀ (c : Config) (mm : Nat), c.wf = true →
      numSamplesFor c mm % 4 = 0 ∧ c.leadingOverheadSamples ≤ numSamplesFor c mm)
    ∧ (∀ mm : U24, numSamplesFor Config.source mm.toNat = 152 + mm.toNat * 6 / 125 * 4
        ∧ numSamplesFor Config.source mm.toNat ≤ 3221376)
    ∧ numSamplesFor Config.source 2000 = 536

/-- R140's failures in R252's order, each changing nothing but RESP, and F_RESIZE its bit. -/
def Obligations.SetupFailuresInOrder : Prop :=
  ∀ s : State, s.faulted = false →
    (setupPinsOk s = false → exec .setup s = .next { s with resp := refusedWith .config })
      ∧ (setupPinsOk s = true → s.state ≠ .idle →
          exec .setup s = .next { s with resp := refusedWith .busy })
      ∧ (setupPinsOk s = true → s.state = .idle → s.alloc = true →
          setupLength s ≠ s.numSamples.toNat →
          exec .setup s = .next { s with fResize := true, resp := refusedWith .faulted })
      ∧ (setupPinsOk s = true → s.state = .idle → s.alloc = false →
          s.config.bufCapacityWords < setupLength s →
          exec .setup s = .next { s with resp := refusedWith .alloc })

/-- R140, R143, R144: SETUP without buffers allocates two of the computed length, with unspecified
contents (free bytes, log 9), and configures the pins; the auxiliary levels are not driven. -/
def Obligations.SetupAllocatesAndConfigures : Prop :=
  ∀ s : State, s.faulted = false → setupPinsOk s = true → s.state = .idle → s.alloc = false →
    setupLength s ≤ s.config.bufCapacityWords →
    exec .setup s = .next
      { s with
        alloc := true
        numSamples := BitVec.ofNat 32 (setupLength s)
        rx := { cells := [], fill := .unspecified s.freeIx }
        tx := { cells := [], fill := .unspecified (s.freeIx + 1) }
        freeIx := s.freeIx + 2
        out := s.out ++ setupActions s
        pinMode := setupModes s
        pinLevel := s.pinLevel.set s.pinTrig.toNat .low
        resp := answered 0#16 }

/-- R140, R284: SETUP with buffers of the computed length keeps them and their contents, answers true,
and configures the pins again. -/
def Obligations.SetupAgainKeepsTheBuffers : Prop :=
  ∀ s : State, s.faulted = false → setupPinsOk s = true → s.state = .idle → s.alloc = true →
    setupLength s = s.numSamples.toNat →
    exec .setup s = .next
      { s with
        out := s.out ++ setupActions s
        pinMode := setupModes s
        pinLevel := s.pinLevel.set s.pinTrig.toNat .low
        resp := answered 0#16 }

/-- R145: a faulted SETUP answers FAULTED and does nothing; one in a cycle with valid pins answers BUSY;
one with invalid pins answers CONFIG in any state; and SETUP never writes STATE, BUFREQ, START_MS,
PERIPH or any RESULT register. -/
def Obligations.SetupNeverTouchesTheCycle : Prop :=
  ∀ s : State,
    (s.faulted = true → exec .setup s = .next { s with resp := refusedWith .faulted })
      ∧ (s.faulted = false → s.state ≠ .idle → setupPinsOk s = true →
          exec .setup s = .next { s with resp := refusedWith .busy })
      ∧ (s.faulted = false → setupPinsOk s = false →
          exec .setup s = .next { s with resp := refusedWith .config })
      ∧ ∃ t, exec .setup s = .next t ∧ t.state = s.state ∧ t.bufreq = s.bufreq
          ∧ t.startMs = s.startMs ∧ t.periph = s.periph ∧ t.resultStatus = s.resultStatus
          ∧ t.resultCause = s.resultCause ∧ t.resultSeq = s.resultSeq
          ∧ t.resultCount = s.resultCount ∧ t.resultDistUm = s.resultDistUm

/-- R146: in IDLE, whatever ALLOC, SAMPLE_ONCE moves to TRIGGERING and writes nothing but STATE and
RESP. -/
def Obligations.SampleOnceStartsTriggering : Prop :=
  ∀ s : State, s.faulted = false → s.state = .idle →
    exec .sampleOnce s = .next { s with state := .triggering, resp := answered 0#16 }

/-! ### ADVANCE -/

/-- R161: in IDLE, ADVANCE moves to TRIGGERING exactly when an interval is configured and has elapsed
modulo 2^32; DATA is the state after it (R175). -/
def Obligations.AdvanceInIdle : Prop :=
  ∀ s : State, s.faulted = false → s.state = .idle →
    (s.intervalMs ≠ 0#24 → s.intervalMs.toNat ≤ msSinceStart s.draws.nowMs s →
        exec .advance s = .next
          { usedDraws s with state := .triggering, resp := answered 1#16 })
      ∧ (s.intervalMs = 0#24 ∨ msSinceStart s.draws.nowMs s < s.intervalMs.toNat →
          exec .advance s = .next { usedDraws s with resp := answered 0#16 })

/-- R163: a TRIGGERING step with ALLOC = 0 raises F_NOBUF and does nothing else: nothing emitted, no
result, STATE still TRIGGERING (the draws it used are the model's own, log 5). -/
def Obligations.AdvanceWithoutBuffersFaults : Prop :=
  ∀ s : State, s.faulted = false → s.state = .triggering → s.alloc = false →
    exec .advance s = .next { usedDraws s with fNobuf := true, resp := refusedWith .faulted }

/-- R165: on INIT_OK = 0, ADVANCE emits P_INIT, records (ERROR, INIT_FAIL), returns to IDLE, and leaves
PERIPH, BUFREQ, the buffers and START_MS alone. -/
def Obligations.TriggeringInitFailure : Prop :=
  ∀ s : State, s.faulted = false → s.state = .triggering → s.alloc = true →
    s.draws.initOk = false →
    exec .advance s = .next
      { usedDraws s with
        out := s.out ++ [.pInit s.config.pcfg s.pinTrig s.pinEcho s.pinAux1 s.pinAux2]
          ++ eventIf s.cbEn .error 0#32 0#32
        resultStatus := .error
        resultCause := .initFail
        resultSeq := s.resultSeq + 1#16
        resultCount := 0#32
        resultDistUm := 0#32
        state := .idle
        resp := answered 0#16 }

/-- R166 to R168: on INIT_OK = 1 and START_OK = 0, ADVANCE prepares the cycle, emits P_INIT and P_START
over NUM_SAMPLES / 2 units, records (ERROR, START_FAIL) and returns to IDLE with PERIPH = INIT; RX reads
zero everywhere and TX is [TRIGGER_WORD, 0, ...]. -/
def Obligations.TriggeringStartFailure : Prop :=
  ∀ s : State, s.faulted = false → s.state = .triggering → s.alloc = true →
    s.draws.initOk = true → s.draws.startOk = false →
    ∃ t, exec .advance s = .next t
      ∧ t = { usedDraws s with
          out := s.out ++ [.pInit s.config.pcfg s.pinTrig s.pinEcho s.pinAux1 s.pinAux2,
              .pStart (BitVec.ofNat 32 (s.numSamples.toNat / 2))]
            ++ eventIf s.cbEn .error 0#32 0#32
          bufreq := 0#32
          rx := t.rx
          tx := t.tx
          periph := .init
          resultStatus := .error
          resultCause := .startFail
          resultSeq := s.resultSeq + 1#16
          resultCount := 0#32
          resultDistUm := 0#32
          state := .idle
          resp := answered 0#16 }
      ∧ (∀ a, t.rx.readByte a = 0#8)
      ∧ (∀ i < s.numSamples.toNat,
          t.tx.readSample i = if i = 0 then s.config.triggerWord else 0#16)

/-- R166, R167, R169: on INIT_OK = START_OK = 1, ADVANCE prepares the cycle, emits P_INIT and P_START,
and enters SAMPLING with PERIPH = RUNNING and START_MS = now; no result is recorded. -/
def Obligations.TriggeringStartsTheCycle : Prop :=
  ∀ s : State, s.faulted = false → s.state = .triggering → s.alloc = true →
    s.draws.initOk = true → s.draws.startOk = true →
    ∃ t, exec .advance s = .next t
      ∧ t = { usedDraws s with
          out := s.out ++ [.pInit s.config.pcfg s.pinTrig s.pinEcho s.pinAux1 s.pinAux2,
              .pStart (BitVec.ofNat 32 (s.numSamples.toNat / 2))]
          bufreq := 0#32
          rx := t.rx
          tx := t.tx
          periph := .running
          startMs := s.draws.nowMs
          state := .sampling
          resp := answered 2#16 }
      ∧ (∀ a, t.rx.readByte a = 0#8)
      ∧ (∀ i < s.numSamples.toNat,
          t.tx.readSample i = if i = 0 then s.config.triggerWord else 0#16)

/-- R171: with fewer than BUFS_FOR_COMPLETE notifications and less than SAMPLING_TIMEOUT_MS elapsed,
ADVANCE in SAMPLING changes only RESP, with DATA = 2 (and the model's draws, log 5). -/
def Obligations.SamplingWaits : Prop :=
  ∀ s : State, s.faulted = false → s.state = .sampling →
    s.bufreq.toNat < s.config.bufsForComplete →
    msSinceStart s.draws.nowMs s < s.config.samplingTimeoutMs →
    exec .advance s = .next { usedDraws s with resp := answered 2#16 }

/-- R172, R173: at the timeout without completion, ADVANCE emits P_UNINIT and the trigger pin's
force-low, records (ERROR, TIMEOUT, 0, 0) and returns to IDLE. -/
def Obligations.SamplingTimesOut : Prop :=
  ∀ s : State, s.faulted = false → s.state = .sampling →
    s.bufreq.toNat < s.config.bufsForComplete →
    s.config.samplingTimeoutMs ≤ msSinceStart s.draws.nowMs s →
    exec .advance s = .next
      { usedDraws s with
        out := s.out ++ [.pUninit, .gpioWrite s.pinTrig false]
          ++ eventIf s.cbEn .error 0#32 0#32
        pinLevel := trigLowLevels s
        periph := .uninit
        resultStatus := .error
        resultCause := .timeout
        resultSeq := s.resultSeq + 1#16
        resultCount := 0#32
        resultDistUm := 0#32
        state := .idle
        resp := answered 0#16 }

/-- R172, R174, R193 to R195: on completion, whatever the elapsed time, ADVANCE emits P_UNINIT and the
force-low, and records SUCCESS with the exact sum N of RX's set bits and the exact distance
N * SOUND_HALF_SPEED; N is at most 16 * NUM_SAMPLES. The invariant excludes lengths above the
capacity, where 32 bits could not hold N. -/
def Obligations.SamplingSucceeds : Prop :=
  ∀ s : State, s.Inv → s.faulted = false → s.state = .sampling →
    s.config.bufsForComplete ≤ s.bufreq.toNat →
    ∃ t, exec .advance s = .next t
      ∧ t = { usedDraws s with
          out := s.out ++ [.pUninit, .gpioWrite s.pinTrig false]
            ++ eventIf s.cbEn .success t.resultCount t.resultDistUm
          pinLevel := trigLowLevels s
          periph := .uninit
          resultStatus := .success
          resultCause := .none
          resultSeq := s.resultSeq + 1#16
          resultCount := t.resultCount
          resultDistUm := t.resultDistUm
          state := .idle
          resp := answered 0#16 }
      ∧ t.resultCount.toNat = setBitsOfRx s
      ∧ t.resultDistUm.toNat = setBitsOfRx s * s.config.soundHalfSpeed
      ∧ setBitsOfRx s ≤ 16 * s.numSamples.toNat

/-- R175: an ADVANCE that raises no fault ends with respond(1, NONE, STATE): DATA is 0 for IDLE, 1 for
TRIGGERING and 2 for SAMPLING, taken after the handler. -/
def Obligations.AdvanceAnswersTheNewState : Prop :=
  ∀ s : State, s.faulted = false → (s.state = .triggering → s.alloc = true) →
    ∃ t, exec .advance s = .next t ∧ t.faulted = false
      ∧ t.resp = answered (match t.state with
          | .idle => 0#16
          | .triggering => 1#16
          | .sampling => 2#16)

/-- R176: every change of STATE a command makes is a row of the table, on that row's conditions. -/
def Obligations.StateChangesFollowTheTable : Prop :=
  ∀ (i : Instr) (s t : State), exec i s = .next t → t.state ≠ s.state →
    s.faulted = false
      ∧ (s.state = .idle ∧ t.state = .triggering
            ∧ (i = .sampleOnce ∨ i = .advance ∧ s.intervalMs ≠ 0#24
                ∧ s.intervalMs.toNat ≤ msSinceStart s.draws.nowMs s)
          ∨ s.state = .triggering ∧ t.state = .idle ∧ i = .advance ∧ s.alloc = true
            ∧ (s.draws.initOk = false ∨ s.draws.startOk = false)
          ∨ s.state = .triggering ∧ t.state = .sampling ∧ i = .advance ∧ s.alloc = true
            ∧ s.draws.initOk = true ∧ s.draws.startOk = true
          ∨ s.state = .sampling ∧ t.state = .idle ∧ i = .advance
            ∧ (s.config.bufsForComplete ≤ s.bufreq.toNat
                ∨ s.config.samplingTimeoutMs ≤ msSinceStart s.draws.nowMs s))

/-- R177, R210, R212: over every step that is no reset, a return to IDLE from a cycle records one
result and, where CB_EN = 1, emits one result event with the recorded values; no other step
records or emits one. SEQ counts the records. -/
def Obligations.OneResultPerCycle : Prop :=
  ∀ s t : State, step s = .next t → ¬ takesReset s →
    (s.state ≠ .idle → t.state = .idle →
        t.resultSeq = s.resultSeq + 1#16
          ∧ (t.resultStatus = .success ∨ t.resultStatus = .error)
          ∧ ∃ acts, t.out = s.out ++ acts ++ eventIf s.cbEn t.resultStatus t.resultCount t.resultDistUm
              ∧ ∀ st n d, Action.resultEvent st n d ∉ acts)
      ∧ (s.state = .idle ∨ t.state ≠ .idle →
          t.resultSeq = s.resultSeq ∧ t.resultStatus = s.resultStatus
            ∧ t.resultCause = s.resultCause ∧ t.resultCount = s.resultCount
            ∧ t.resultDistUm = s.resultDistUm
            ∧ ∃ acts, t.out = s.out ++ acts ∧ ∀ st n d, Action.resultEvent st n d ∉ acts)

/-! ### Results and the bit counter -/

/-- R213: GET_RESULT answers the last result's status in every state and changes nothing but RESP. -/
def Obligations.GetResultAnswersTheStatus : Prop :=
  ∀ s : State, s.faulted = false →
    exec .getResult s = .next
      { s with
        resp := answered (match s.resultStatus with
          | .success => 0#16
          | .error => 1#16
          | .tooManyRetries => 2#16
          | .busy => 3#16) }

/-- R191: POPCNT16 answers the bit count of its operand in every state and changes nothing but RESP. -/
def Obligations.Popcnt16AnswersTheBitCount : Prop :=
  ∀ (s : State) (v : Sample), s.faulted = false →
    exec (.popcnt16 v) s = .next
      { s with resp := answered (BitVec.ofNat 16 ((List.range 16).countP fun k => v.getLsbD k)) }

/-- R190: popcount16(w) is the number of bits of w that are 1, from 0 for 0x0000 to 16 for 0xFFFF, and
for no other word. -/
def Obligations.PopcountCountsSetBits : Prop :=
  ∀ w : Sample,
    popcount16 w = ((List.range 16).map fun k => (w.getLsbD k).toNat).sum
      ∧ popcount16 w ≤ 16
      ∧ (popcount16 w = 0 ↔ w = 0x0000#16) ∧ (popcount16 w = 16 ↔ w = 0xFFFF#16)
      ∧ popcount16 0x0001#16 = 1

/-- R193: the sum N does not depend on the order of the words, and is at most 16 a word. -/
def Obligations.EchoSumIgnoresWordOrder : Prop :=
  ∀ s s' : State,
    ((List.range s.numSamples.toNat).map s.rx.readSample).Perm
      ((List.range s'.numSamples.toNat).map s'.rx.readSample) →
    echoSum s = echoSum s' ∧ echoSum s = setBitsOfRx s ∧ echoSum s ≤ 16 * s.numSamples.toNat

/-! ### The monitor and the peripheral's writes -/

/-- R230, R231: a notification is ignored while faulted; else it adds 1 to BUFREQ, saturating, and the
one that reaches BUFS_FOR_COMPLETE while PERIPH = RUNNING emits P_STOP and sets PERIPH = STOPPED.
Nothing else changes. -/
def Obligations.NotificationCountsAndStops : Prop :=
  ∀ (s : State) (rest : List Stimulus), s.config.wf = true → s.agenda = .bufNeeded :: rest →
    (s.faulted = true → step s = .next { s with agenda := rest })
      ∧ (s.faulted = false →
          ¬ (s.bufreq.toNat + 1 = s.config.bufsForComplete ∧ s.periph = .running) →
          step s = .next
            { s with
              agenda := rest
              bufreq := BitVec.ofNat 32 (min (s.bufreq.toNat + 1) (2 ^ 32 - 1)) })
      ∧ (s.faulted = false → s.bufreq.toNat + 1 = s.config.bufsForComplete →
          s.periph = .running →
          step s = .next
            { s with
              agenda := rest
              bufreq := BitVec.ofNat 32 (min (s.bufreq.toNat + 1) (2 ^ 32 - 1))
              out := s.out ++ [.pStop]
              periph := .stopped })

/-- R31, R233: BUFREQ only counts notifications, but for reset and the reset to 0 by an ADVANCE that is
written to CMD in TRIGGERING with buffers and INIT_OK = 1: "BUFREQ never decreases except at the TRIGGERING reset and at reset". -/
def Obligations.BufreqOnlyCounts : Prop :=
  ∀ s t : State, step s = .next t →
    t.bufreq = s.bufreq
      ∨ (takeStimulus s).1 = .bufNeeded ∧ s.faulted = false
          ∧ t.bufreq.toNat = min (s.bufreq.toNat + 1) (2 ^ 32 - 1)
      ∨ t.bufreq = 0#32 ∧ (takesReset s
          ∨ (∃ w, (takeStimulus s).1 = .hostWrite s.config.regBase 4 w ∧ decode w = .ok .advance)
            ∧ s.state = .triggering ∧ s.alloc = true ∧ s.draws.initOk = true ∧ s.faulted = false)

/-- R65, R67, R68: while started, a word or a 32-bit unit the peripheral writes into RX is read back,
with the unit's word 2u in bits 15:0 and word 2u + 1 in bits 31:16; every byte outside the words written
and every other field stay. -/
def Obligations.PeripheralWritesReadBack : Prop :=
  ∀ (s : State) (rest : List Stimulus), s.Inv → s.periph = .running →
    (∀ i v, i < s.numSamples.toNat → s.agenda = .rxWord i v :: rest →
        ∃ t, step s = .next t ∧ t = { s with agenda := rest, rx := t.rx }
          ∧ t.rx.readSample i = v
          ∧ ∀ a, a ≠ 2 * i → a ≠ 2 * i + 1 → t.rx.readByte a = s.rx.readByte a)
      ∧ (∀ u v, 2 * u + 1 < s.numSamples.toNat → s.agenda = .rxUnit u v :: rest →
          ∃ t, step s = .next t ∧ t = { s with agenda := rest, rx := t.rx }
            ∧ t.rx.readSample (2 * u) = v.extractLsb' 0 16
            ∧ t.rx.readSample (2 * u + 1) = v.extractLsb' 16 16
            ∧ t.rx.readUnit u = v
            ∧ ∀ a, a < 4 * u ∨ 4 * u + 4 ≤ a → t.rx.readByte a = s.rx.readByte a)

/-- R68: no write of the peripheral, of a word or of a 32-bit unit, reaches a buffer unless it is started,
and none of a word or a unit that lies past the end of the buffer changes anything (the model's
reading of an action R68 excludes, logs 8 and 11). -/
def Obligations.PeripheralWritesBounded : Prop :=
  ∀ (s : State) (rest : List Stimulus), s.config.wf = true →
    (s.periph ≠ .running → ∀ e, (∃ i v, e = .rxWord i v) ∨ (∃ u v, e = .rxUnit u v) →
        s.agenda = e :: rest → step s = .next { s with agenda := rest })
      ∧ (∀ i v, s.numSamples.toNat ≤ i → s.agenda = .rxWord i v :: rest →
          step s = .next { s with agenda := rest })
      ∧ (∀ u v, s.numSamples.toNat ≤ 2 * u → s.agenda = .rxUnit u v :: rest →
          step s = .next { s with agenda := rest })

/-! ### The register window -/

/-- R62: an aligned 32-bit read of the window returns the register at its offset, reserved bits, CMD and
the reserved offsets read 0, and nothing but the host's received value (log 15) changes. -/
def Obligations.HostReadHasNoSideEffect : Prop :=
  ∀ (s : State) (off : Nat) (rest : List Stimulus), s.config.wf = true →
    s.agenda = .hostRead (s.config.regBase + off) 4 :: rest → off % 4 = 0 → off < 0x40 →
    ∃ v, step s = .next { s with agenda := rest, busData := v }
      ∧ (off = 0x00 → v = 0#32) ∧ (off = 0x04 → v = respWord s) ∧ (off = 0x08 → v = statusWord s)
      ∧ (off = 0x0C → v = s.bufreq) ∧ (off = 0x10 → v = s.numSamples) ∧ (off = 0x14 → v = s.startMs)
      ∧ (off = 0x18 → v = resultWord s) ∧ (off = 0x1C → v = s.resultCount)
      ∧ (off = 0x20 → v = s.resultDistUm)
      ∧ (off = 0x24 → v = s.pinAux2 ++ s.pinAux1 ++ s.pinEcho ++ s.pinTrig)
      ∧ (off = 0x28 → v = 0#8 ++ s.rangeMm) ∧ (off = 0x2C → v = 0#8 ++ s.intervalMs)
      ∧ (off = 0x30 → v = 0#31 ++ BitVec.ofBool s.cbEn) ∧ (0x34 ≤ off → v = 0#32)

/-- R25, R26, R34: the fields of RESP, STATUS and RESULT at their bits, every reserved bit 0, with the
codes of R27 for STATE, R29 for PERIPH, R96 for ERR, R35 for the result status and R36 for CAUSE; STATE
is never 3. -/
def Obligations.RegisterFieldsAtTheirBits : Prop :=
  ∀ s : State,
    respWord s = s.resp.data ++ s.resp.err.code ++ 0#7 ++ BitVec.ofBool s.resp.ok
      ∧ statusWord s = 0#22 ++ BitVec.ofBool s.fNobuf ++ BitVec.ofBool s.fResize ++ 0#2
          ++ s.periph.code ++ 0#1 ++ BitVec.ofBool s.alloc ++ s.state.code
      ∧ resultWord s = s.resultSeq ++ 0#8 ++ s.resultCause.code ++ 0#2 ++ s.resultStatus.code
      ∧ s.state.code ≠ 3#2
      ∧ [SeqState.idle, .triggering, .sampling].map SeqState.code = [0#2, 1#2, 2#2]
      ∧ [Periph.uninit, .init, .running, .stopped].map Periph.code = [0#2, 1#2, 2#2, 3#2]
      ∧ [ErrCode.none, .illegal, .busy, .config, .alloc, .faulted].map ErrCode.code
          = [0x00#8, 0x01#8, 0x02#8, 0x03#8, 0x04#8, 0x05#8]
      ∧ [ResultStatus.success, .error, .tooManyRetries, .busy].map ResultStatus.code
          = [0#2, 1#2, 2#2, 3#2]
      ∧ [Cause.none, .initFail, .startFail, .timeout, .noResult].map Cause.code
          = [0#4, 1#4, 2#4, 3#4, 15#4]

/-- R63: a write of CMD executes the word; a write of any other offset is ignored; and CMD is not
idempotent: two SAMPLE_ONCE writes in a row answer OK then BUSY. -/
def Obligations.HostWriteOnlyReachesCmd : Prop :=
  ∀ (s : State) (v : Word) (rest : List Stimulus), s.config.wf = true →
    (s.agenda = .hostWrite s.config.regBase 4 v :: rest → step s = execute v { s with agenda := rest })
      ∧ (∀ off, s.agenda = .hostWrite (s.config.regBase + off) 4 v :: rest → off % 4 = 0 →
          0 < off → off < 0x40 → step s = .next { s with agenda := rest })
      ∧ (s.faulted = false → s.state = .idle →
          ∃ t, execute 0x11000000#32 s = .next t ∧ t.resp = answered 0#16
            ∧ execute 0x11000000#32 t = .next { t with resp := refusedWith .busy })

/-- R61: an access of the window that is not one aligned 32-bit register is given no step, and one
outside it is not the PWS's: the step stops, by the model's two names (log 7). That addresses have no
bus width and do not wrap is the model's choice (log 20). -/
def Obligations.MalformedAccessStops : Prop :=
  ∀ (s : State) (addr width : Nat) (v : Word) (rest : List Stimulus), s.config.wf = true →
    ∀ e ∈ [Stimulus.hostRead addr width, .hostWrite addr width v], s.agenda = e :: rest →
      (s.config.regBase ≤ addr → addr < s.config.regBase + 0x40 → width ≠ 4 ∨ addr % 4 ≠ 0 →
          step s = .fault .busError)
        ∧ (addr < s.config.regBase ∨ s.config.regBase + 0x40 ≤ addr →
            step s = .fault .outsideWindow)
        ∧ (s.config.regBase ≤ addr → addr < s.config.regBase + 0x40 → width = 4 → addr % 4 = 0 →
            ∃ t, step s = .next t)

/-- R8: parameters that break a constraint are refused; legal ones make every step answer a next state
but one that takes a malformed or out-of-window host access. The last two conjuncts of the condition
are the model's (log 3). -/
def Obligations.IllegalParametersRefused : Prop :=
  ∀ s : State,
    (s.config.wf = true ↔
        s.config.leadingOverheadSamples % 4 = 0 ∧ s.config.wordsPerRangeUnit % 4 = 0
          ∧ 1 ≤ s.config.numPins ∧ s.config.numPins ≤ 255
          ∧ s.config.leadingOverheadSamples ≤ s.config.bufCapacityWords
          ∧ 16 * s.config.bufCapacityWords * s.config.soundHalfSpeed < 2 ^ 32
          ∧ 1 ≤ s.config.bufsForComplete ∧ s.config.samplingTimeoutMs < 2 ^ 31
          ∧ s.config.regBase % 4 = 0 ∧ 16 * s.config.bufCapacityWords < 2 ^ 32)
      ∧ (s.config.wf = false → step s = .refused .badConfiguration)
      ∧ (s.config.wf = true →
          (∀ a n, (takeStimulus s).1 = .hostRead a n → inWindow s.config a n) →
          (∀ a n v, (takeStimulus s).1 = .hostWrite a n v → inWindow s.config a n) →
          ∃ t, step s = .next t)

/-! ### Reset -/

/-- R51: every register's value after reset, read as the host reads it, and the state it cannot read. -/
def Obligations.ResetValues : Prop :=
  (∀ c : Config, ∀ s, s = State.resetWith c →
      readReg .RESP s = 0#32 ∧ readReg .STATUS s = 0#32 ∧ readReg .BUFREQ s = 0#32
        ∧ readReg .NUM_SAMPLES s = 0#32 ∧ readReg .START_MS s = 0#32
        ∧ readReg .RESULT s = 0x000000F1#32 ∧ readReg .RESULT_COUNT s = 0#32
        ∧ readReg .RESULT_DIST_UM s = 0#32 ∧ readReg .CFG_PINS s = 0xFFFFFFFF#32
        ∧ readReg .CFG_RANGE_MM s = c.defaultRangeMm.setWidth 32
        ∧ readReg .CFG_INTERVAL_MS s = 0#32 ∧ readReg .CFG_FLAGS s = 0#32
        ∧ s.alloc = false ∧ s.periph = .uninit ∧ s.out = []
        ∧ (∀ p < c.numPins, s.pinMode[p]? = some .unknown ∧ s.pinLevel[p]? = some .unknown))
    ∧ readReg .CFG_RANGE_MM State.reset = 2000#32

/-- R280: a reset step, in any state, faulted or in a cycle, sets every register to its reset value,
records no result and emits nothing; the environment's inputs stay (log 13). A power-down is one
(R266). -/
def Obligations.ResetStepFromAnyState : Prop :=
  ∀ (s : State) (rest : List Stimulus) (e : Stimulus), s.config.wf = true →
    e = .reset ∨ e = .powerDown → s.agenda = e :: rest →
    step s = .next
      { State.resetWith s.config with
        draws := s.draws, agenda := rest, busData := s.busData, freeIx := s.freeIx }

/-- R281: reset releases the buffers, and the PWS has no other release path: every other step keeps
ALLOC and NUM_SAMPLES once they are set. -/
def Obligations.OnlyResetReleasesBuffers : Prop :=
  ∀ s t : State, step s = .next t →
    (takesReset s → t.alloc = false ∧ t.numSamples = 0#32 ∧ t.rx.cells = [] ∧ t.tx.cells = [])
      ∧ (¬ takesReset s → s.alloc = true → t.alloc = true ∧ t.numSamples = s.numSamples)

/-! ### Whole-machine rules -/

/-- The invariant holds after reset on every legal platform, whatever is scheduled. -/
def Obligations.InvariantAfterReset : Prop :=
  ∀ (c : Config) (schedule : List Stimulus), c.wf = true → (State.boot c schedule).Inv

/-- Every step keeps the invariant: R50's items, the fault, result and monitor facts of R230, R255 and
R210, the canonical buffers, and the GPIO port's size. -/
def Obligations.StepKeepsTheInvariant : Prop :=
  ∀ s t : State, s.Inv → step s = .next t → t.Inv

/-- R50: its five items in every state a run reaches. -/
def Obligations.ReachableStatesKeepR50 : Prop :=
  ∀ s : State, s.Reachable →
    (s.state = .sampling → s.alloc = true ∧ (s.periph = .running ∨ s.periph = .stopped))
      ∧ (s.alloc = false → s.numSamples = 0#32)
      ∧ (s.alloc = true → s.config.leadingOverheadSamples ≤ s.numSamples.toNat
          ∧ s.numSamples.toNat ≤ s.config.bufCapacityWords ∧ s.numSamples.toNat % 4 = 0)
      ∧ (s.state = .idle ∨ s.state = .triggering → s.periph = .uninit ∨ s.periph = .init)
      ∧ (s.state ≠ .idle → ∃ t, exec .sampleOnce s = .next t ∧ t = { s with resp := t.resp }
          ∧ t.resp.ok = false)

/-- R255, R257: while faulted nothing but reset changes the machine: every other step leaves all but
RESP and the environment's own fields as they are, so both fault bits stay and nothing is emitted. -/
def Obligations.FaultFreezesTheMachine : Prop :=
  ∀ s t : State, s.Inv → s.faulted = true → step s = .next t → ¬ takesReset s →
    t = { s with
      resp := t.resp, draws := t.draws, agenda := t.agenda, busData := t.busData, freeIx := t.freeIx }

/-- R263: the PWS never drives a pin high: if no high write and no high level is there, no step
makes one. -/
def Obligations.NoPinIsEverDrivenHigh : Prop :=
  ∀ s t : State, step s = .next t →
    (∀ p, Action.gpioWrite p true ∉ s.out) → PinLevel.high ∉ s.pinLevel →
    (∀ p, Action.gpioWrite p true ∉ t.out) ∧ PinLevel.high ∉ t.pinLevel

/-- R261, R291: for real times t0 ≤ t1 less than 2^32 ms apart the PWS's elapsed time is exactly t1 - t0,
across a wrap too; for a clock that stepped back by 1 to 2^31 ms it is so large that a sampling
cycle times out at once. -/
def Obligations.ElapsedTimeAcrossWrap : Prop :=
  ∀ (s : State) (t0 t1 : Nat), s.startMs = clockAt t0 →
    (clockAdvances t0 t1 → (elapsed (clockAt t1) s).toNat = t1 - t0)
      ∧ (s.config.wf = true → t1 < t0 → t0 - t1 ≤ 2 ^ 31 → timedOut (clockAt t1) s = true)

/-- R99: the expansions, access by access: CFG_PINS and CFG_RANGE_M for operands that fit their fields,
UNSET_PIN for each of the four roles, WAIT_CYCLE as its pass of ADVANCE and a STATUS read repeated
as often as the host loops (log 16), and MEASURE as SAMPLE_ONCE, the wait passes, and the reads of
RESULT, RESULT_COUNT and RESULT_DIST_UM. -/
def Obligations.PseudoInstructionsExpand : Prop :=
  ∀ (c : Config),
    (∀ t e a1 a2 : Pin,
        (Pseudo.cfgPins t.toNat e.toNat a1.toNat a2.toNat).expand.map (HostLine.stimulus c)
          = [some (commandWrite c (encode (.cfgTrig t))), some (commandWrite c (encode (.cfgEcho e))),
              some (commandWrite c (encode (.cfgAux1 a1))),
              some (commandWrite c (encode (.cfgAux2 a2)))])
      ∧ (∀ m k : Nat, m * 1000 + k < 2 ^ 24 →
          (Pseudo.cfgRangeM m k).expand.map (HostLine.stimulus c)
            = [some (commandWrite c (encode (.cfgRange (BitVec.ofNat 24 (m * 1000 + k)))))])
      ∧ [PinRole.trig, .echo, .aux1, .aux2].map
            (fun r => (Pseudo.unsetPin r).expand.map (HostLine.stimulus c))
          = [[some (commandWrite c 0x010000FF#32)], [some (commandWrite c 0x020000FF#32)],
              [some (commandWrite c 0x030000FF#32)], [some (commandWrite c 0x040000FF#32)]]
      ∧ (∀ k, (Pseudo.waitCycle k).expand.map (HostLine.stimulus c)
          = (List.replicate k (waitAccesses c)).flatten)
      ∧ (∀ k, (Pseudo.measure k).expand.map (HostLine.stimulus c)
          = [some (.hostWrite c.regBase 4 0x11000000#32)]
            ++ (List.replicate k (waitAccesses c)).flatten
            ++ [some (.hostRead (c.regBase + 0x18) 4), some (.hostRead (c.regBase + 0x1C) 4),
              some (.hostRead (c.regBase + 0x20) 4)])

/-- One seven-step schedule, for a platform with BUFS_FOR_COMPLETE = 2: from IDLE with buffers,
SAMPLE_ONCE, the draws of a successful start, ADVANCE, one RX word, two notifications and one more ADVANCE
end in IDLE with SUCCESS, the word's bit count and its distance, whatever the second ADVANCE draws.
R235's waiting ADVANCE and its late third notification are not part of it. -/
def Obligations.MeasurementCompletes : Prop :=
  ∀ (s : State) (now : Word) (i : Nat) (v : Sample), s.Inv → s.faulted = false → s.state = .idle →
    s.alloc = true → s.config.bufsForComplete = 2 → i < s.numSamples.toNat →
    s.agenda = [.hostWrite s.config.regBase 4 0x11000000#32,
      .present { nowMs := now, initOk := true, startOk := true },
      .hostWrite s.config.regBase 4 0x12000000#32, .rxWord i v, .bufNeeded, .bufNeeded,
      .hostWrite s.config.regBase 4 0x12000000#32] →
    ∃ t, Sys2Proof.core.run 7 s = .next t ∧ t.state = .idle ∧ t.periph = .uninit
      ∧ t.bufreq = 2#32 ∧ t.startMs = now
      ∧ t.resultStatus = .success ∧ t.resultCause = .none ∧ t.resultSeq = s.resultSeq + 1#16
      ∧ t.resultCount.toNat = popcount16 v
      ∧ t.resultDistUm.toNat = popcount16 v * s.config.soundHalfSpeed
      ∧ t.out = s.out ++ [.pInit s.config.pcfg s.pinTrig s.pinEcho s.pinAux1 s.pinAux2,
            .pStart (BitVec.ofNat 32 (s.numSamples.toNat / 2)), .pStop, .pUninit,
            .gpioWrite s.pinTrig false]
          ++ eventIf s.cbEn .success t.resultCount t.resultDistUm

/-- R214: the value of getLastResult() is RESULT.STATUS and RESULT_DIST_UM / 10^6 metres exactly; its
four accesses, GET_RESULT and the reads of RESULT, RESULT_COUNT and RESULT_DIST_UM, answer the status
and those registers and change nothing but RESP and the model's own fields agenda and busData (logs 4
and 15); and every step that is neither reset nor a write of ADVANCE keeps the last result. -/
def Obligations.LastResultIsStatusAndExactMetres : Prop :=
  (∀ s : State, (lastResult s).status = s.resultStatus
      ∧ (lastResult s).distanceMeters * 1000000 = s.resultDistUm.toNat)
    ∧ (∀ c : Config, lastResultLines.map (HostLine.stimulus c)
        = (lastResultAccesses c).map some)
    ∧ (∀ (s : State) (rest : List Stimulus), s.config.wf = true → s.faulted = false →
        s.agenda = lastResultAccesses s.config ++ rest →
        ∀ k ≤ 4, ∃ t, Sys2Proof.core.run k s = .next t
          ∧ t = { s with resp := t.resp, agenda := t.agenda, busData := t.busData }
          ∧ t.agenda = (lastResultAccesses s.config).drop k ++ rest
          ∧ (1 ≤ k → t.resp = answered (s.resultStatus.code.setWidth 16))
          ∧ (k = 2 → t.busData = resultWord s) ∧ (k = 3 → t.busData = s.resultCount)
          ∧ (k = 4 → t.busData = s.resultDistUm))
    ∧ (∀ s t : State, step s = .next t → ¬ takesReset s →
        (∀ a n w, (takeStimulus s).1 = .hostWrite a n w → decode w ≠ .ok .advance) →
        lastResult t = lastResult s)
end

