-- ==== Sys2Proof/Laws/State.lean ====
section
/-!
SUPPORT. One lemma per field per named update of State, so that no later proof unfolds an update.
-/

namespace Sys2Proof.Machine

/-! ### The port and the actions that do not drive it -/

@[simp] theorem levelsAfter_gpioMode (k : Nat) (p : Pin) (d : PinDir) (l : List PinLevel) :
    levelsAfter k (.gpioMode p d) l = l := rfl
@[simp] theorem modesAfter_gpioWrite (k : Nat) (p : Pin) (v : Bool) (l : List PinMode) :
    modesAfter k (.gpioWrite p v) l = l := rfl
@[simp] theorem modesAfter_pInit (k : Nat) (c : PeriphConfig) (t e a1 a2 : Pin) (l : List PinMode) :
    modesAfter k (.pInit c t e a1 a2) l = l := rfl
@[simp] theorem levelsAfter_pInit (k : Nat) (c : PeriphConfig) (t e a1 a2 : Pin) (l : List PinLevel) :
    levelsAfter k (.pInit c t e a1 a2) l = l := rfl
@[simp] theorem modesAfter_pStart (k : Nat) (u : Word) (l : List PinMode) :
    modesAfter k (.pStart u) l = l := rfl
@[simp] theorem levelsAfter_pStart (k : Nat) (u : Word) (l : List PinLevel) :
    levelsAfter k (.pStart u) l = l := rfl
@[simp] theorem modesAfter_pStop (k : Nat) (l : List PinMode) :
    modesAfter k (.pStop) l = l := rfl
@[simp] theorem levelsAfter_pStop (k : Nat) (l : List PinLevel) :
    levelsAfter k (.pStop) l = l := rfl
@[simp] theorem modesAfter_pUninit (k : Nat) (l : List PinMode) :
    modesAfter k (.pUninit) l = l := rfl
@[simp] theorem levelsAfter_pUninit (k : Nat) (l : List PinLevel) :
    levelsAfter k (.pUninit) l = l := rfl
@[simp] theorem modesAfter_resultEvent (k : Nat) (st : ResultStatus) (c d : Word) (l : List PinMode) :
    modesAfter k (.resultEvent st c d) l = l := rfl
@[simp] theorem levelsAfter_resultEvent (k : Nat) (st : ResultStatus) (c d : Word) (l : List PinLevel) :
    levelsAfter k (.resultEvent st c d) l = l := rfl

@[simp] theorem length_modesAfter (k : Nat) (a : Action) (l : List PinMode) :
    (modesAfter k a l).length = l.length := by
  unfold modesAfter; split
  · split <;> simp
  · rfl
@[simp] theorem length_levelsAfter (k : Nat) (a : Action) (l : List PinLevel) :
    (levelsAfter k a l).length = l.length := by
  unfold levelsAfter; split
  · split <;> simp
  · rfl

/-! ### respond -/

@[simp] theorem respond_config (ok : Bool) (err : ErrCode) (data : BitVec 16) (s : State) :
    (respond ok err data s).config = s.config := rfl
@[simp] theorem respond_resp (ok : Bool) (err : ErrCode) (data : BitVec 16) (s : State) :
    (respond ok err data s).resp = ⟨ok, err, data⟩ := rfl
@[simp] theorem respond_state (ok : Bool) (err : ErrCode) (data : BitVec 16) (s : State) :
    (respond ok err data s).state = s.state := rfl
@[simp] theorem respond_alloc (ok : Bool) (err : ErrCode) (data : BitVec 16) (s : State) :
    (respond ok err data s).alloc = s.alloc := rfl
@[simp] theorem respond_periph (ok : Bool) (err : ErrCode) (data : BitVec 16) (s : State) :
    (respond ok err data s).periph = s.periph := rfl
@[simp] theorem respond_fResize (ok : Bool) (err : ErrCode) (data : BitVec 16) (s : State) :
    (respond ok err data s).fResize = s.fResize := rfl
@[simp] theorem respond_fNobuf (ok : Bool) (err : ErrCode) (data : BitVec 16) (s : State) :
    (respond ok err data s).fNobuf = s.fNobuf := rfl
@[simp] theorem respond_bufreq (ok : Bool) (err : ErrCode) (data : BitVec 16) (s : State) :
    (respond ok err data s).bufreq = s.bufreq := rfl
@[simp] theorem respond_numSamples (ok : Bool) (err : ErrCode) (data : BitVec 16) (s : State) :
    (respond ok err data s).numSamples = s.numSamples := rfl
@[simp] theorem respond_startMs (ok : Bool) (err : ErrCode) (data : BitVec 16) (s : State) :
    (respond ok err data s).startMs = s.startMs := rfl
@[simp] theorem respond_resultStatus (ok : Bool) (err : ErrCode) (data : BitVec 16) (s : State) :
    (respond ok err data s).resultStatus = s.resultStatus := rfl
@[simp] theorem respond_resultCause (ok : Bool) (err : ErrCode) (data : BitVec 16) (s : State) :
    (respond ok err data s).resultCause = s.resultCause := rfl
@[simp] theorem respond_resultSeq (ok : Bool) (err : ErrCode) (data : BitVec 16) (s : State) :
    (respond ok err data s).resultSeq = s.resultSeq := rfl
@[simp] theorem respond_resultCount (ok : Bool) (err : ErrCode) (data : BitVec 16) (s : State) :
    (respond ok err data s).resultCount = s.resultCount := rfl
@[simp] theorem respond_resultDistUm (ok : Bool) (err : ErrCode) (data : BitVec 16) (s : State) :
    (respond ok err data s).resultDistUm = s.resultDistUm := rfl
@[simp] theorem respond_pinTrig (ok : Bool) (err : ErrCode) (data : BitVec 16) (s : State) :
    (respond ok err data s).pinTrig = s.pinTrig := rfl
@[simp] theorem respond_pinEcho (ok : Bool) (err : ErrCode) (data : BitVec 16) (s : State) :
    (respond ok err data s).pinEcho = s.pinEcho := rfl
@[simp] theorem respond_pinAux1 (ok : Bool) (err : ErrCode) (data : BitVec 16) (s : State) :
    (respond ok err data s).pinAux1 = s.pinAux1 := rfl
@[simp] theorem respond_pinAux2 (ok : Bool) (err : ErrCode) (data : BitVec 16) (s : State) :
    (respond ok err data s).pinAux2 = s.pinAux2 := rfl
@[simp] theorem respond_rangeMm (ok : Bool) (err : ErrCode) (data : BitVec 16) (s : State) :
    (respond ok err data s).rangeMm = s.rangeMm := rfl
@[simp] theorem respond_intervalMs (ok : Bool) (err : ErrCode) (data : BitVec 16) (s : State) :
    (respond ok err data s).intervalMs = s.intervalMs := rfl
@[simp] theorem respond_cbEn (ok : Bool) (err : ErrCode) (data : BitVec 16) (s : State) :
    (respond ok err data s).cbEn = s.cbEn := rfl
@[simp] theorem respond_rx (ok : Bool) (err : ErrCode) (data : BitVec 16) (s : State) :
    (respond ok err data s).rx = s.rx := rfl
@[simp] theorem respond_tx (ok : Bool) (err : ErrCode) (data : BitVec 16) (s : State) :
    (respond ok err data s).tx = s.tx := rfl
@[simp] theorem respond_out (ok : Bool) (err : ErrCode) (data : BitVec 16) (s : State) :
    (respond ok err data s).out = s.out := rfl
@[simp] theorem respond_pinMode (ok : Bool) (err : ErrCode) (data : BitVec 16) (s : State) :
    (respond ok err data s).pinMode = s.pinMode := rfl
@[simp] theorem respond_pinLevel (ok : Bool) (err : ErrCode) (data : BitVec 16) (s : State) :
    (respond ok err data s).pinLevel = s.pinLevel := rfl
@[simp] theorem respond_draws (ok : Bool) (err : ErrCode) (data : BitVec 16) (s : State) :
    (respond ok err data s).draws = s.draws := rfl
@[simp] theorem respond_agenda (ok : Bool) (err : ErrCode) (data : BitVec 16) (s : State) :
    (respond ok err data s).agenda = s.agenda := rfl
@[simp] theorem respond_busData (ok : Bool) (err : ErrCode) (data : BitVec 16) (s : State) :
    (respond ok err data s).busData = s.busData := rfl
@[simp] theorem respond_freeIx (ok : Bool) (err : ErrCode) (data : BitVec 16) (s : State) :
    (respond ok err data s).freeIx = s.freeIx := rfl

/-! ### succeed -/

@[simp] theorem succeed_config (data : BitVec 16) (s : State) :
    (succeed data s).config = s.config := rfl
@[simp] theorem succeed_resp (data : BitVec 16) (s : State) :
    (succeed data s).resp = ⟨true, .none, data⟩ := rfl
@[simp] theorem succeed_state (data : BitVec 16) (s : State) :
    (succeed data s).state = s.state := rfl
@[simp] theorem succeed_alloc (data : BitVec 16) (s : State) :
    (succeed data s).alloc = s.alloc := rfl
@[simp] theorem succeed_periph (data : BitVec 16) (s : State) :
    (succeed data s).periph = s.periph := rfl
@[simp] theorem succeed_fResize (data : BitVec 16) (s : State) :
    (succeed data s).fResize = s.fResize := rfl
@[simp] theorem succeed_fNobuf (data : BitVec 16) (s : State) :
    (succeed data s).fNobuf = s.fNobuf := rfl
@[simp] theorem succeed_bufreq (data : BitVec 16) (s : State) :
    (succeed data s).bufreq = s.bufreq := rfl
@[simp] theorem succeed_numSamples (data : BitVec 16) (s : State) :
    (succeed data s).numSamples = s.numSamples := rfl
@[simp] theorem succeed_startMs (data : BitVec 16) (s : State) :
    (succeed data s).startMs = s.startMs := rfl
@[simp] theorem succeed_resultStatus (data : BitVec 16) (s : State) :
    (succeed data s).resultStatus = s.resultStatus := rfl
@[simp] theorem succeed_resultCause (data : BitVec 16) (s : State) :
    (succeed data s).resultCause = s.resultCause := rfl
@[simp] theorem succeed_resultSeq (data : BitVec 16) (s : State) :
    (succeed data s).resultSeq = s.resultSeq := rfl
@[simp] theorem succeed_resultCount (data : BitVec 16) (s : State) :
    (succeed data s).resultCount = s.resultCount := rfl
@[simp] theorem succeed_resultDistUm (data : BitVec 16) (s : State) :
    (succeed data s).resultDistUm = s.resultDistUm := rfl
@[simp] theorem succeed_pinTrig (data : BitVec 16) (s : State) :
    (succeed data s).pinTrig = s.pinTrig := rfl
@[simp] theorem succeed_pinEcho (data : BitVec 16) (s : State) :
    (succeed data s).pinEcho = s.pinEcho := rfl
@[simp] theorem succeed_pinAux1 (data : BitVec 16) (s : State) :
    (succeed data s).pinAux1 = s.pinAux1 := rfl
@[simp] theorem succeed_pinAux2 (data : BitVec 16) (s : State) :
    (succeed data s).pinAux2 = s.pinAux2 := rfl
@[simp] theorem succeed_rangeMm (data : BitVec 16) (s : State) :
    (succeed data s).rangeMm = s.rangeMm := rfl
@[simp] theorem succeed_intervalMs (data : BitVec 16) (s : State) :
    (succeed data s).intervalMs = s.intervalMs := rfl
@[simp] theorem succeed_cbEn (data : BitVec 16) (s : State) :
    (succeed data s).cbEn = s.cbEn := rfl
@[simp] theorem succeed_rx (data : BitVec 16) (s : State) :
    (succeed data s).rx = s.rx := rfl
@[simp] theorem succeed_tx (data : BitVec 16) (s : State) :
    (succeed data s).tx = s.tx := rfl
@[simp] theorem succeed_out (data : BitVec 16) (s : State) :
    (succeed data s).out = s.out := rfl
@[simp] theorem succeed_pinMode (data : BitVec 16) (s : State) :
    (succeed data s).pinMode = s.pinMode := rfl
@[simp] theorem succeed_pinLevel (data : BitVec 16) (s : State) :
    (succeed data s).pinLevel = s.pinLevel := rfl
@[simp] theorem succeed_draws (data : BitVec 16) (s : State) :
    (succeed data s).draws = s.draws := rfl
@[simp] theorem succeed_agenda (data : BitVec 16) (s : State) :
    (succeed data s).agenda = s.agenda := rfl
@[simp] theorem succeed_busData (data : BitVec 16) (s : State) :
    (succeed data s).busData = s.busData := rfl
@[simp] theorem succeed_freeIx (data : BitVec 16) (s : State) :
    (succeed data s).freeIx = s.freeIx := rfl

/-! ### reject -/

@[simp] theorem reject_config (err : ErrCode) (s : State) :
    (reject err s).config = s.config := rfl
@[simp] theorem reject_resp (err : ErrCode) (s : State) :
    (reject err s).resp = ⟨false, err, 0#16⟩ := rfl
@[simp] theorem reject_state (err : ErrCode) (s : State) :
    (reject err s).state = s.state := rfl
@[simp] theorem reject_alloc (err : ErrCode) (s : State) :
    (reject err s).alloc = s.alloc := rfl
@[simp] theorem reject_periph (err : ErrCode) (s : State) :
    (reject err s).periph = s.periph := rfl
@[simp] theorem reject_fResize (err : ErrCode) (s : State) :
    (reject err s).fResize = s.fResize := rfl
@[simp] theorem reject_fNobuf (err : ErrCode) (s : State) :
    (reject err s).fNobuf = s.fNobuf := rfl
@[simp] theorem reject_bufreq (err : ErrCode) (s : State) :
    (reject err s).bufreq = s.bufreq := rfl
@[simp] theorem reject_numSamples (err : ErrCode) (s : State) :
    (reject err s).numSamples = s.numSamples := rfl
@[simp] theorem reject_startMs (err : ErrCode) (s : State) :
    (reject err s).startMs = s.startMs := rfl
@[simp] theorem reject_resultStatus (err : ErrCode) (s : State) :
    (reject err s).resultStatus = s.resultStatus := rfl
@[simp] theorem reject_resultCause (err : ErrCode) (s : State) :
    (reject err s).resultCause = s.resultCause := rfl
@[simp] theorem reject_resultSeq (err : ErrCode) (s : State) :
    (reject err s).resultSeq = s.resultSeq := rfl
@[simp] theorem reject_resultCount (err : ErrCode) (s : State) :
    (reject err s).resultCount = s.resultCount := rfl
@[simp] theorem reject_resultDistUm (err : ErrCode) (s : State) :
    (reject err s).resultDistUm = s.resultDistUm := rfl
@[simp] theorem reject_pinTrig (err : ErrCode) (s : State) :
    (reject err s).pinTrig = s.pinTrig := rfl
@[simp] theorem reject_pinEcho (err : ErrCode) (s : State) :
    (reject err s).pinEcho = s.pinEcho := rfl
@[simp] theorem reject_pinAux1 (err : ErrCode) (s : State) :
    (reject err s).pinAux1 = s.pinAux1 := rfl
@[simp] theorem reject_pinAux2 (err : ErrCode) (s : State) :
    (reject err s).pinAux2 = s.pinAux2 := rfl
@[simp] theorem reject_rangeMm (err : ErrCode) (s : State) :
    (reject err s).rangeMm = s.rangeMm := rfl
@[simp] theorem reject_intervalMs (err : ErrCode) (s : State) :
    (reject err s).intervalMs = s.intervalMs := rfl
@[simp] theorem reject_cbEn (err : ErrCode) (s : State) :
    (reject err s).cbEn = s.cbEn := rfl
@[simp] theorem reject_rx (err : ErrCode) (s : State) :
    (reject err s).rx = s.rx := rfl
@[simp] theorem reject_tx (err : ErrCode) (s : State) :
    (reject err s).tx = s.tx := rfl
@[simp] theorem reject_out (err : ErrCode) (s : State) :
    (reject err s).out = s.out := rfl
@[simp] theorem reject_pinMode (err : ErrCode) (s : State) :
    (reject err s).pinMode = s.pinMode := rfl
@[simp] theorem reject_pinLevel (err : ErrCode) (s : State) :
    (reject err s).pinLevel = s.pinLevel := rfl
@[simp] theorem reject_draws (err : ErrCode) (s : State) :
    (reject err s).draws = s.draws := rfl
@[simp] theorem reject_agenda (err : ErrCode) (s : State) :
    (reject err s).agenda = s.agenda := rfl
@[simp] theorem reject_busData (err : ErrCode) (s : State) :
    (reject err s).busData = s.busData := rfl
@[simp] theorem reject_freeIx (err : ErrCode) (s : State) :
    (reject err s).freeIx = s.freeIx := rfl

/-! ### emit -/

@[simp] theorem emit_config (a : Action) (s : State) :
    (emit a s).config = s.config := rfl
@[simp] theorem emit_resp (a : Action) (s : State) :
    (emit a s).resp = s.resp := rfl
@[simp] theorem emit_state (a : Action) (s : State) :
    (emit a s).state = s.state := rfl
@[simp] theorem emit_alloc (a : Action) (s : State) :
    (emit a s).alloc = s.alloc := rfl
@[simp] theorem emit_periph (a : Action) (s : State) :
    (emit a s).periph = s.periph := rfl
@[simp] theorem emit_fResize (a : Action) (s : State) :
    (emit a s).fResize = s.fResize := rfl
@[simp] theorem emit_fNobuf (a : Action) (s : State) :
    (emit a s).fNobuf = s.fNobuf := rfl
@[simp] theorem emit_bufreq (a : Action) (s : State) :
    (emit a s).bufreq = s.bufreq := rfl
@[simp] theorem emit_numSamples (a : Action) (s : State) :
    (emit a s).numSamples = s.numSamples := rfl
@[simp] theorem emit_startMs (a : Action) (s : State) :
    (emit a s).startMs = s.startMs := rfl
@[simp] theorem emit_resultStatus (a : Action) (s : State) :
    (emit a s).resultStatus = s.resultStatus := rfl
@[simp] theorem emit_resultCause (a : Action) (s : State) :
    (emit a s).resultCause = s.resultCause := rfl
@[simp] theorem emit_resultSeq (a : Action) (s : State) :
    (emit a s).resultSeq = s.resultSeq := rfl
@[simp] theorem emit_resultCount (a : Action) (s : State) :
    (emit a s).resultCount = s.resultCount := rfl
@[simp] theorem emit_resultDistUm (a : Action) (s : State) :
    (emit a s).resultDistUm = s.resultDistUm := rfl
@[simp] theorem emit_pinTrig (a : Action) (s : State) :
    (emit a s).pinTrig = s.pinTrig := rfl
@[simp] theorem emit_pinEcho (a : Action) (s : State) :
    (emit a s).pinEcho = s.pinEcho := rfl
@[simp] theorem emit_pinAux1 (a : Action) (s : State) :
    (emit a s).pinAux1 = s.pinAux1 := rfl
@[simp] theorem emit_pinAux2 (a : Action) (s : State) :
    (emit a s).pinAux2 = s.pinAux2 := rfl
@[simp] theorem emit_rangeMm (a : Action) (s : State) :
    (emit a s).rangeMm = s.rangeMm := rfl
@[simp] theorem emit_intervalMs (a : Action) (s : State) :
    (emit a s).intervalMs = s.intervalMs := rfl
@[simp] theorem emit_cbEn (a : Action) (s : State) :
    (emit a s).cbEn = s.cbEn := rfl
@[simp] theorem emit_rx (a : Action) (s : State) :
    (emit a s).rx = s.rx := rfl
@[simp] theorem emit_tx (a : Action) (s : State) :
    (emit a s).tx = s.tx := rfl
@[simp] theorem emit_out (a : Action) (s : State) :
    (emit a s).out = s.out ++ [a] := rfl
@[simp] theorem emit_pinMode (a : Action) (s : State) :
    (emit a s).pinMode = modesAfter s.config.numPins a s.pinMode := rfl
@[simp] theorem emit_pinLevel (a : Action) (s : State) :
    (emit a s).pinLevel = levelsAfter s.config.numPins a s.pinLevel := rfl
@[simp] theorem emit_draws (a : Action) (s : State) :
    (emit a s).draws = s.draws := rfl
@[simp] theorem emit_agenda (a : Action) (s : State) :
    (emit a s).agenda = s.agenda := rfl
@[simp] theorem emit_busData (a : Action) (s : State) :
    (emit a s).busData = s.busData := rfl
@[simp] theorem emit_freeIx (a : Action) (s : State) :
    (emit a s).freeIx = s.freeIx := rfl

/-! ### setState -/

@[simp] theorem setState_config (st : SeqState) (s : State) :
    (setState st s).config = s.config := rfl
@[simp] theorem setState_resp (st : SeqState) (s : State) :
    (setState st s).resp = s.resp := rfl
@[simp] theorem setState_state (st : SeqState) (s : State) :
    (setState st s).state = st := rfl
@[simp] theorem setState_alloc (st : SeqState) (s : State) :
    (setState st s).alloc = s.alloc := rfl
@[simp] theorem setState_periph (st : SeqState) (s : State) :
    (setState st s).periph = s.periph := rfl
@[simp] theorem setState_fResize (st : SeqState) (s : State) :
    (setState st s).fResize = s.fResize := rfl
@[simp] theorem setState_fNobuf (st : SeqState) (s : State) :
    (setState st s).fNobuf = s.fNobuf := rfl
@[simp] theorem setState_bufreq (st : SeqState) (s : State) :
    (setState st s).bufreq = s.bufreq := rfl
@[simp] theorem setState_numSamples (st : SeqState) (s : State) :
    (setState st s).numSamples = s.numSamples := rfl
@[simp] theorem setState_startMs (st : SeqState) (s : State) :
    (setState st s).startMs = s.startMs := rfl
@[simp] theorem setState_resultStatus (st : SeqState) (s : State) :
    (setState st s).resultStatus = s.resultStatus := rfl
@[simp] theorem setState_resultCause (st : SeqState) (s : State) :
    (setState st s).resultCause = s.resultCause := rfl
@[simp] theorem setState_resultSeq (st : SeqState) (s : State) :
    (setState st s).resultSeq = s.resultSeq := rfl
@[simp] theorem setState_resultCount (st : SeqState) (s : State) :
    (setState st s).resultCount = s.resultCount := rfl
@[simp] theorem setState_resultDistUm (st : SeqState) (s : State) :
    (setState st s).resultDistUm = s.resultDistUm := rfl
@[simp] theorem setState_pinTrig (st : SeqState) (s : State) :
    (setState st s).pinTrig = s.pinTrig := rfl
@[simp] theorem setState_pinEcho (st : SeqState) (s : State) :
    (setState st s).pinEcho = s.pinEcho := rfl
@[simp] theorem setState_pinAux1 (st : SeqState) (s : State) :
    (setState st s).pinAux1 = s.pinAux1 := rfl
@[simp] theorem setState_pinAux2 (st : SeqState) (s : State) :
    (setState st s).pinAux2 = s.pinAux2 := rfl
@[simp] theorem setState_rangeMm (st : SeqState) (s : State) :
    (setState st s).rangeMm = s.rangeMm := rfl
@[simp] theorem setState_intervalMs (st : SeqState) (s : State) :
    (setState st s).intervalMs = s.intervalMs := rfl
@[simp] theorem setState_cbEn (st : SeqState) (s : State) :
    (setState st s).cbEn = s.cbEn := rfl
@[simp] theorem setState_rx (st : SeqState) (s : State) :
    (setState st s).rx = s.rx := rfl
@[simp] theorem setState_tx (st : SeqState) (s : State) :
    (setState st s).tx = s.tx := rfl
@[simp] theorem setState_out (st : SeqState) (s : State) :
    (setState st s).out = s.out := rfl
@[simp] theorem setState_pinMode (st : SeqState) (s : State) :
    (setState st s).pinMode = s.pinMode := rfl
@[simp] theorem setState_pinLevel (st : SeqState) (s : State) :
    (setState st s).pinLevel = s.pinLevel := rfl
@[simp] theorem setState_draws (st : SeqState) (s : State) :
    (setState st s).draws = s.draws := rfl
@[simp] theorem setState_agenda (st : SeqState) (s : State) :
    (setState st s).agenda = s.agenda := rfl
@[simp] theorem setState_busData (st : SeqState) (s : State) :
    (setState st s).busData = s.busData := rfl
@[simp] theorem setState_freeIx (st : SeqState) (s : State) :
    (setState st s).freeIx = s.freeIx := rfl

/-! ### setPeriph -/

@[simp] theorem setPeriph_config (p : Periph) (s : State) :
    (setPeriph p s).config = s.config := rfl
@[simp] theorem setPeriph_resp (p : Periph) (s : State) :
    (setPeriph p s).resp = s.resp := rfl
@[simp] theorem setPeriph_state (p : Periph) (s : State) :
    (setPeriph p s).state = s.state := rfl
@[simp] theorem setPeriph_alloc (p : Periph) (s : State) :
    (setPeriph p s).alloc = s.alloc := rfl
@[simp] theorem setPeriph_periph (p : Periph) (s : State) :
    (setPeriph p s).periph = p := rfl
@[simp] theorem setPeriph_fResize (p : Periph) (s : State) :
    (setPeriph p s).fResize = s.fResize := rfl
@[simp] theorem setPeriph_fNobuf (p : Periph) (s : State) :
    (setPeriph p s).fNobuf = s.fNobuf := rfl
@[simp] theorem setPeriph_bufreq (p : Periph) (s : State) :
    (setPeriph p s).bufreq = s.bufreq := rfl
@[simp] theorem setPeriph_numSamples (p : Periph) (s : State) :
    (setPeriph p s).numSamples = s.numSamples := rfl
@[simp] theorem setPeriph_startMs (p : Periph) (s : State) :
    (setPeriph p s).startMs = s.startMs := rfl
@[simp] theorem setPeriph_resultStatus (p : Periph) (s : State) :
    (setPeriph p s).resultStatus = s.resultStatus := rfl
@[simp] theorem setPeriph_resultCause (p : Periph) (s : State) :
    (setPeriph p s).resultCause = s.resultCause := rfl
@[simp] theorem setPeriph_resultSeq (p : Periph) (s : State) :
    (setPeriph p s).resultSeq = s.resultSeq := rfl
@[simp] theorem setPeriph_resultCount (p : Periph) (s : State) :
    (setPeriph p s).resultCount = s.resultCount := rfl
@[simp] theorem setPeriph_resultDistUm (p : Periph) (s : State) :
    (setPeriph p s).resultDistUm = s.resultDistUm := rfl
@[simp] theorem setPeriph_pinTrig (p : Periph) (s : State) :
    (setPeriph p s).pinTrig = s.pinTrig := rfl
@[simp] theorem setPeriph_pinEcho (p : Periph) (s : State) :
    (setPeriph p s).pinEcho = s.pinEcho := rfl
@[simp] theorem setPeriph_pinAux1 (p : Periph) (s : State) :
    (setPeriph p s).pinAux1 = s.pinAux1 := rfl
@[simp] theorem setPeriph_pinAux2 (p : Periph) (s : State) :
    (setPeriph p s).pinAux2 = s.pinAux2 := rfl
@[simp] theorem setPeriph_rangeMm (p : Periph) (s : State) :
    (setPeriph p s).rangeMm = s.rangeMm := rfl
@[simp] theorem setPeriph_intervalMs (p : Periph) (s : State) :
    (setPeriph p s).intervalMs = s.intervalMs := rfl
@[simp] theorem setPeriph_cbEn (p : Periph) (s : State) :
    (setPeriph p s).cbEn = s.cbEn := rfl
@[simp] theorem setPeriph_rx (p : Periph) (s : State) :
    (setPeriph p s).rx = s.rx := rfl
@[simp] theorem setPeriph_tx (p : Periph) (s : State) :
    (setPeriph p s).tx = s.tx := rfl
@[simp] theorem setPeriph_out (p : Periph) (s : State) :
    (setPeriph p s).out = s.out := rfl
@[simp] theorem setPeriph_pinMode (p : Periph) (s : State) :
    (setPeriph p s).pinMode = s.pinMode := rfl
@[simp] theorem setPeriph_pinLevel (p : Periph) (s : State) :
    (setPeriph p s).pinLevel = s.pinLevel := rfl
@[simp] theorem setPeriph_draws (p : Periph) (s : State) :
    (setPeriph p s).draws = s.draws := rfl
@[simp] theorem setPeriph_agenda (p : Periph) (s : State) :
    (setPeriph p s).agenda = s.agenda := rfl
@[simp] theorem setPeriph_busData (p : Periph) (s : State) :
    (setPeriph p s).busData = s.busData := rfl
@[simp] theorem setPeriph_freeIx (p : Periph) (s : State) :
    (setPeriph p s).freeIx = s.freeIx := rfl

/-! ### raiseFault -/

@[simp] theorem raiseFault_config (f : FaultBit) (s : State) :
    (raiseFault f s).config = s.config := by cases f <;> rfl
@[simp] theorem raiseFault_resp (f : FaultBit) (s : State) :
    (raiseFault f s).resp = s.resp := by cases f <;> rfl
@[simp] theorem raiseFault_state (f : FaultBit) (s : State) :
    (raiseFault f s).state = s.state := by cases f <;> rfl
@[simp] theorem raiseFault_alloc (f : FaultBit) (s : State) :
    (raiseFault f s).alloc = s.alloc := by cases f <;> rfl
@[simp] theorem raiseFault_periph (f : FaultBit) (s : State) :
    (raiseFault f s).periph = s.periph := by cases f <;> rfl
@[simp] theorem raiseFault_fResize (f : FaultBit) (s : State) :
    (raiseFault f s).fResize = (f == .resize || s.fResize) := by cases f <;> rfl
@[simp] theorem raiseFault_fNobuf (f : FaultBit) (s : State) :
    (raiseFault f s).fNobuf = (f == .nobuf || s.fNobuf) := by cases f <;> rfl
@[simp] theorem raiseFault_bufreq (f : FaultBit) (s : State) :
    (raiseFault f s).bufreq = s.bufreq := by cases f <;> rfl
@[simp] theorem raiseFault_numSamples (f : FaultBit) (s : State) :
    (raiseFault f s).numSamples = s.numSamples := by cases f <;> rfl
@[simp] theorem raiseFault_startMs (f : FaultBit) (s : State) :
    (raiseFault f s).startMs = s.startMs := by cases f <;> rfl
@[simp] theorem raiseFault_resultStatus (f : FaultBit) (s : State) :
    (raiseFault f s).resultStatus = s.resultStatus := by cases f <;> rfl
@[simp] theorem raiseFault_resultCause (f : FaultBit) (s : State) :
    (raiseFault f s).resultCause = s.resultCause := by cases f <;> rfl
@[simp] theorem raiseFault_resultSeq (f : FaultBit) (s : State) :
    (raiseFault f s).resultSeq = s.resultSeq := by cases f <;> rfl
@[simp] theorem raiseFault_resultCount (f : FaultBit) (s : State) :
    (raiseFault f s).resultCount = s.resultCount := by cases f <;> rfl
@[simp] theorem raiseFault_resultDistUm (f : FaultBit) (s : State) :
    (raiseFault f s).resultDistUm = s.resultDistUm := by cases f <;> rfl
@[simp] theorem raiseFault_pinTrig (f : FaultBit) (s : State) :
    (raiseFault f s).pinTrig = s.pinTrig := by cases f <;> rfl
@[simp] theorem raiseFault_pinEcho (f : FaultBit) (s : State) :
    (raiseFault f s).pinEcho = s.pinEcho := by cases f <;> rfl
@[simp] theorem raiseFault_pinAux1 (f : FaultBit) (s : State) :
    (raiseFault f s).pinAux1 = s.pinAux1 := by cases f <;> rfl
@[simp] theorem raiseFault_pinAux2 (f : FaultBit) (s : State) :
    (raiseFault f s).pinAux2 = s.pinAux2 := by cases f <;> rfl
@[simp] theorem raiseFault_rangeMm (f : FaultBit) (s : State) :
    (raiseFault f s).rangeMm = s.rangeMm := by cases f <;> rfl
@[simp] theorem raiseFault_intervalMs (f : FaultBit) (s : State) :
    (raiseFault f s).intervalMs = s.intervalMs := by cases f <;> rfl
@[simp] theorem raiseFault_cbEn (f : FaultBit) (s : State) :
    (raiseFault f s).cbEn = s.cbEn := by cases f <;> rfl
@[simp] theorem raiseFault_rx (f : FaultBit) (s : State) :
    (raiseFault f s).rx = s.rx := by cases f <;> rfl
@[simp] theorem raiseFault_tx (f : FaultBit) (s : State) :
    (raiseFault f s).tx = s.tx := by cases f <;> rfl
@[simp] theorem raiseFault_out (f : FaultBit) (s : State) :
    (raiseFault f s).out = s.out := by cases f <;> rfl
@[simp] theorem raiseFault_pinMode (f : FaultBit) (s : State) :
    (raiseFault f s).pinMode = s.pinMode := by cases f <;> rfl
@[simp] theorem raiseFault_pinLevel (f : FaultBit) (s : State) :
    (raiseFault f s).pinLevel = s.pinLevel := by cases f <;> rfl
@[simp] theorem raiseFault_draws (f : FaultBit) (s : State) :
    (raiseFault f s).draws = s.draws := by cases f <;> rfl
@[simp] theorem raiseFault_agenda (f : FaultBit) (s : State) :
    (raiseFault f s).agenda = s.agenda := by cases f <;> rfl
@[simp] theorem raiseFault_busData (f : FaultBit) (s : State) :
    (raiseFault f s).busData = s.busData := by cases f <;> rfl
@[simp] theorem raiseFault_freeIx (f : FaultBit) (s : State) :
    (raiseFault f s).freeIx = s.freeIx := by cases f <;> rfl

/-! ### storeResult -/

@[simp] theorem storeResult_config (st : ResultStatus) (c : Cause) (n d : Word) (s : State) :
    (storeResult st c n d s).config = s.config := rfl
@[simp] theorem storeResult_resp (st : ResultStatus) (c : Cause) (n d : Word) (s : State) :
    (storeResult st c n d s).resp = s.resp := rfl
@[simp] theorem storeResult_state (st : ResultStatus) (c : Cause) (n d : Word) (s : State) :
    (storeResult st c n d s).state = s.state := rfl
@[simp] theorem storeResult_alloc (st : ResultStatus) (c : Cause) (n d : Word) (s : State) :
    (storeResult st c n d s).alloc = s.alloc := rfl
@[simp] theorem storeResult_periph (st : ResultStatus) (c : Cause) (n d : Word) (s : State) :
    (storeResult st c n d s).periph = s.periph := rfl
@[simp] theorem storeResult_fResize (st : ResultStatus) (c : Cause) (n d : Word) (s : State) :
    (storeResult st c n d s).fResize = s.fResize := rfl
@[simp] theorem storeResult_fNobuf (st : ResultStatus) (c : Cause) (n d : Word) (s : State) :
    (storeResult st c n d s).fNobuf = s.fNobuf := rfl
@[simp] theorem storeResult_bufreq (st : ResultStatus) (c : Cause) (n d : Word) (s : State) :
    (storeResult st c n d s).bufreq = s.bufreq := rfl
@[simp] theorem storeResult_numSamples (st : ResultStatus) (c : Cause) (n d : Word) (s : State) :
    (storeResult st c n d s).numSamples = s.numSamples := rfl
@[simp] theorem storeResult_startMs (st : ResultStatus) (c : Cause) (n d : Word) (s : State) :
    (storeResult st c n d s).startMs = s.startMs := rfl
@[simp] theorem storeResult_resultStatus (st : ResultStatus) (c : Cause) (n d : Word) (s : State) :
    (storeResult st c n d s).resultStatus = st := rfl
@[simp] theorem storeResult_resultCause (st : ResultStatus) (c : Cause) (n d : Word) (s : State) :
    (storeResult st c n d s).resultCause = c := rfl
@[simp] theorem storeResult_resultSeq (st : ResultStatus) (c : Cause) (n d : Word) (s : State) :
    (storeResult st c n d s).resultSeq = s.resultSeq + 1#16 := rfl
@[simp] theorem storeResult_resultCount (st : ResultStatus) (c : Cause) (n d : Word) (s : State) :
    (storeResult st c n d s).resultCount = n := rfl
@[simp] theorem storeResult_resultDistUm (st : ResultStatus) (c : Cause) (n d : Word) (s : State) :
    (storeResult st c n d s).resultDistUm = d := rfl
@[simp] theorem storeResult_pinTrig (st : ResultStatus) (c : Cause) (n d : Word) (s : State) :
    (storeResult st c n d s).pinTrig = s.pinTrig := rfl
@[simp] theorem storeResult_pinEcho (st : ResultStatus) (c : Cause) (n d : Word) (s : State) :
    (storeResult st c n d s).pinEcho = s.pinEcho := rfl
@[simp] theorem storeResult_pinAux1 (st : ResultStatus) (c : Cause) (n d : Word) (s : State) :
    (storeResult st c n d s).pinAux1 = s.pinAux1 := rfl
@[simp] theorem storeResult_pinAux2 (st : ResultStatus) (c : Cause) (n d : Word) (s : State) :
    (storeResult st c n d s).pinAux2 = s.pinAux2 := rfl
@[simp] theorem storeResult_rangeMm (st : ResultStatus) (c : Cause) (n d : Word) (s : State) :
    (storeResult st c n d s).rangeMm = s.rangeMm := rfl
@[simp] theorem storeResult_intervalMs (st : ResultStatus) (c : Cause) (n d : Word) (s : State) :
    (storeResult st c n d s).intervalMs = s.intervalMs := rfl
@[simp] theorem storeResult_cbEn (st : ResultStatus) (c : Cause) (n d : Word) (s : State) :
    (storeResult st c n d s).cbEn = s.cbEn := rfl
@[simp] theorem storeResult_rx (st : ResultStatus) (c : Cause) (n d : Word) (s : State) :
    (storeResult st c n d s).rx = s.rx := rfl
@[simp] theorem storeResult_tx (st : ResultStatus) (c : Cause) (n d : Word) (s : State) :
    (storeResult st c n d s).tx = s.tx := rfl
@[simp] theorem storeResult_out (st : ResultStatus) (c : Cause) (n d : Word) (s : State) :
    (storeResult st c n d s).out = s.out := rfl
@[simp] theorem storeResult_pinMode (st : ResultStatus) (c : Cause) (n d : Word) (s : State) :
    (storeResult st c n d s).pinMode = s.pinMode := rfl
@[simp] theorem storeResult_pinLevel (st : ResultStatus) (c : Cause) (n d : Word) (s : State) :
    (storeResult st c n d s).pinLevel = s.pinLevel := rfl
@[simp] theorem storeResult_draws (st : ResultStatus) (c : Cause) (n d : Word) (s : State) :
    (storeResult st c n d s).draws = s.draws := rfl
@[simp] theorem storeResult_agenda (st : ResultStatus) (c : Cause) (n d : Word) (s : State) :
    (storeResult st c n d s).agenda = s.agenda := rfl
@[simp] theorem storeResult_busData (st : ResultStatus) (c : Cause) (n d : Word) (s : State) :
    (storeResult st c n d s).busData = s.busData := rfl
@[simp] theorem storeResult_freeIx (st : ResultStatus) (c : Cause) (n d : Word) (s : State) :
    (storeResult st c n d s).freeIx = s.freeIx := rfl

/-! ### record -/

@[simp] theorem record_config (st : ResultStatus) (c : Cause) (n d : Word) (s : State) :
    (record st c n d s).config = s.config := by unfold record; split <;> simp
@[simp] theorem record_resp (st : ResultStatus) (c : Cause) (n d : Word) (s : State) :
    (record st c n d s).resp = s.resp := by unfold record; split <;> simp
@[simp] theorem record_state (st : ResultStatus) (c : Cause) (n d : Word) (s : State) :
    (record st c n d s).state = s.state := by unfold record; split <;> simp
@[simp] theorem record_alloc (st : ResultStatus) (c : Cause) (n d : Word) (s : State) :
    (record st c n d s).alloc = s.alloc := by unfold record; split <;> simp
@[simp] theorem record_periph (st : ResultStatus) (c : Cause) (n d : Word) (s : State) :
    (record st c n d s).periph = s.periph := by unfold record; split <;> simp
@[simp] theorem record_fResize (st : ResultStatus) (c : Cause) (n d : Word) (s : State) :
    (record st c n d s).fResize = s.fResize := by unfold record; split <;> simp
@[simp] theorem record_fNobuf (st : ResultStatus) (c : Cause) (n d : Word) (s : State) :
    (record st c n d s).fNobuf = s.fNobuf := by unfold record; split <;> simp
@[simp] theorem record_bufreq (st : ResultStatus) (c : Cause) (n d : Word) (s : State) :
    (record st c n d s).bufreq = s.bufreq := by unfold record; split <;> simp
@[simp] theorem record_numSamples (st : ResultStatus) (c : Cause) (n d : Word) (s : State) :
    (record st c n d s).numSamples = s.numSamples := by unfold record; split <;> simp
@[simp] theorem record_startMs (st : ResultStatus) (c : Cause) (n d : Word) (s : State) :
    (record st c n d s).startMs = s.startMs := by unfold record; split <;> simp
@[simp] theorem record_resultStatus (st : ResultStatus) (c : Cause) (n d : Word) (s : State) :
    (record st c n d s).resultStatus = st := by unfold record; split <;> simp
@[simp] theorem record_resultCause (st : ResultStatus) (c : Cause) (n d : Word) (s : State) :
    (record st c n d s).resultCause = c := by unfold record; split <;> simp
@[simp] theorem record_resultSeq (st : ResultStatus) (c : Cause) (n d : Word) (s : State) :
    (record st c n d s).resultSeq = s.resultSeq + 1#16 := by unfold record; split <;> simp
@[simp] theorem record_resultCount (st : ResultStatus) (c : Cause) (n d : Word) (s : State) :
    (record st c n d s).resultCount = n := by unfold record; split <;> simp
@[simp] theorem record_resultDistUm (st : ResultStatus) (c : Cause) (n d : Word) (s : State) :
    (record st c n d s).resultDistUm = d := by unfold record; split <;> simp
@[simp] theorem record_pinTrig (st : ResultStatus) (c : Cause) (n d : Word) (s : State) :
    (record st c n d s).pinTrig = s.pinTrig := by unfold record; split <;> simp
@[simp] theorem record_pinEcho (st : ResultStatus) (c : Cause) (n d : Word) (s : State) :
    (record st c n d s).pinEcho = s.pinEcho := by unfold record; split <;> simp
@[simp] theorem record_pinAux1 (st : ResultStatus) (c : Cause) (n d : Word) (s : State) :
    (record st c n d s).pinAux1 = s.pinAux1 := by unfold record; split <;> simp
@[simp] theorem record_pinAux2 (st : ResultStatus) (c : Cause) (n d : Word) (s : State) :
    (record st c n d s).pinAux2 = s.pinAux2 := by unfold record; split <;> simp
@[simp] theorem record_rangeMm (st : ResultStatus) (c : Cause) (n d : Word) (s : State) :
    (record st c n d s).rangeMm = s.rangeMm := by unfold record; split <;> simp
@[simp] theorem record_intervalMs (st : ResultStatus) (c : Cause) (n d : Word) (s : State) :
    (record st c n d s).intervalMs = s.intervalMs := by unfold record; split <;> simp
@[simp] theorem record_cbEn (st : ResultStatus) (c : Cause) (n d : Word) (s : State) :
    (record st c n d s).cbEn = s.cbEn := by unfold record; split <;> simp
@[simp] theorem record_rx (st : ResultStatus) (c : Cause) (n d : Word) (s : State) :
    (record st c n d s).rx = s.rx := by unfold record; split <;> simp
@[simp] theorem record_tx (st : ResultStatus) (c : Cause) (n d : Word) (s : State) :
    (record st c n d s).tx = s.tx := by unfold record; split <;> simp
@[simp] theorem record_out (st : ResultStatus) (c : Cause) (n d : Word) (s : State) :
    (record st c n d s).out = s.out ++ (if s.cbEn then [.resultEvent st n d] else []) := by unfold record; split <;> simp_all
@[simp] theorem record_pinMode (st : ResultStatus) (c : Cause) (n d : Word) (s : State) :
    (record st c n d s).pinMode = s.pinMode := by unfold record; split <;> simp
@[simp] theorem record_pinLevel (st : ResultStatus) (c : Cause) (n d : Word) (s : State) :
    (record st c n d s).pinLevel = s.pinLevel := by unfold record; split <;> simp
@[simp] theorem record_draws (st : ResultStatus) (c : Cause) (n d : Word) (s : State) :
    (record st c n d s).draws = s.draws := by unfold record; split <;> simp
@[simp] theorem record_agenda (st : ResultStatus) (c : Cause) (n d : Word) (s : State) :
    (record st c n d s).agenda = s.agenda := by unfold record; split <;> simp
@[simp] theorem record_busData (st : ResultStatus) (c : Cause) (n d : Word) (s : State) :
    (record st c n d s).busData = s.busData := by unfold record; split <;> simp
@[simp] theorem record_freeIx (st : ResultStatus) (c : Cause) (n d : Word) (s : State) :
    (record st c n d s).freeIx = s.freeIx := by unfold record; split <;> simp

/-! ### redraw -/

@[simp] theorem redraw_config (s : State) :
    (redraw s).config = s.config := rfl
@[simp] theorem redraw_resp (s : State) :
    (redraw s).resp = s.resp := rfl
@[simp] theorem redraw_state (s : State) :
    (redraw s).state = s.state := rfl
@[simp] theorem redraw_alloc (s : State) :
    (redraw s).alloc = s.alloc := rfl
@[simp] theorem redraw_periph (s : State) :
    (redraw s).periph = s.periph := rfl
@[simp] theorem redraw_fResize (s : State) :
    (redraw s).fResize = s.fResize := rfl
@[simp] theorem redraw_fNobuf (s : State) :
    (redraw s).fNobuf = s.fNobuf := rfl
@[simp] theorem redraw_bufreq (s : State) :
    (redraw s).bufreq = s.bufreq := rfl
@[simp] theorem redraw_numSamples (s : State) :
    (redraw s).numSamples = s.numSamples := rfl
@[simp] theorem redraw_startMs (s : State) :
    (redraw s).startMs = s.startMs := rfl
@[simp] theorem redraw_resultStatus (s : State) :
    (redraw s).resultStatus = s.resultStatus := rfl
@[simp] theorem redraw_resultCause (s : State) :
    (redraw s).resultCause = s.resultCause := rfl
@[simp] theorem redraw_resultSeq (s : State) :
    (redraw s).resultSeq = s.resultSeq := rfl
@[simp] theorem redraw_resultCount (s : State) :
    (redraw s).resultCount = s.resultCount := rfl
@[simp] theorem redraw_resultDistUm (s : State) :
    (redraw s).resultDistUm = s.resultDistUm := rfl
@[simp] theorem redraw_pinTrig (s : State) :
    (redraw s).pinTrig = s.pinTrig := rfl
@[simp] theorem redraw_pinEcho (s : State) :
    (redraw s).pinEcho = s.pinEcho := rfl
@[simp] theorem redraw_pinAux1 (s : State) :
    (redraw s).pinAux1 = s.pinAux1 := rfl
@[simp] theorem redraw_pinAux2 (s : State) :
    (redraw s).pinAux2 = s.pinAux2 := rfl
@[simp] theorem redraw_rangeMm (s : State) :
    (redraw s).rangeMm = s.rangeMm := rfl
@[simp] theorem redraw_intervalMs (s : State) :
    (redraw s).intervalMs = s.intervalMs := rfl
@[simp] theorem redraw_cbEn (s : State) :
    (redraw s).cbEn = s.cbEn := rfl
@[simp] theorem redraw_rx (s : State) :
    (redraw s).rx = s.rx := rfl
@[simp] theorem redraw_tx (s : State) :
    (redraw s).tx = s.tx := rfl
@[simp] theorem redraw_out (s : State) :
    (redraw s).out = s.out := rfl
@[simp] theorem redraw_pinMode (s : State) :
    (redraw s).pinMode = s.pinMode := rfl
@[simp] theorem redraw_pinLevel (s : State) :
    (redraw s).pinLevel = s.pinLevel := rfl
@[simp] theorem redraw_draws (s : State) :
    (redraw s).draws = Config.freeDraws s.freeIx := rfl
@[simp] theorem redraw_agenda (s : State) :
    (redraw s).agenda = s.agenda := rfl
@[simp] theorem redraw_busData (s : State) :
    (redraw s).busData = s.busData := rfl
@[simp] theorem redraw_freeIx (s : State) :
    (redraw s).freeIx = s.freeIx + 1 := rfl

/-! ### allocate -/

@[simp] theorem allocate_config (n : Nat) (s : State) :
    (allocate n s).config = s.config := rfl
@[simp] theorem allocate_resp (n : Nat) (s : State) :
    (allocate n s).resp = s.resp := rfl
@[simp] theorem allocate_state (n : Nat) (s : State) :
    (allocate n s).state = s.state := rfl
@[simp] theorem allocate_alloc (n : Nat) (s : State) :
    (allocate n s).alloc = true := rfl
@[simp] theorem allocate_periph (n : Nat) (s : State) :
    (allocate n s).periph = s.periph := rfl
@[simp] theorem allocate_fResize (n : Nat) (s : State) :
    (allocate n s).fResize = s.fResize := rfl
@[simp] theorem allocate_fNobuf (n : Nat) (s : State) :
    (allocate n s).fNobuf = s.fNobuf := rfl
@[simp] theorem allocate_bufreq (n : Nat) (s : State) :
    (allocate n s).bufreq = s.bufreq := rfl
@[simp] theorem allocate_numSamples (n : Nat) (s : State) :
    (allocate n s).numSamples = BitVec.ofNat 32 n := rfl
@[simp] theorem allocate_startMs (n : Nat) (s : State) :
    (allocate n s).startMs = s.startMs := rfl
@[simp] theorem allocate_resultStatus (n : Nat) (s : State) :
    (allocate n s).resultStatus = s.resultStatus := rfl
@[simp] theorem allocate_resultCause (n : Nat) (s : State) :
    (allocate n s).resultCause = s.resultCause := rfl
@[simp] theorem allocate_resultSeq (n : Nat) (s : State) :
    (allocate n s).resultSeq = s.resultSeq := rfl
@[simp] theorem allocate_resultCount (n : Nat) (s : State) :
    (allocate n s).resultCount = s.resultCount := rfl
@[simp] theorem allocate_resultDistUm (n : Nat) (s : State) :
    (allocate n s).resultDistUm = s.resultDistUm := rfl
@[simp] theorem allocate_pinTrig (n : Nat) (s : State) :
    (allocate n s).pinTrig = s.pinTrig := rfl
@[simp] theorem allocate_pinEcho (n : Nat) (s : State) :
    (allocate n s).pinEcho = s.pinEcho := rfl
@[simp] theorem allocate_pinAux1 (n : Nat) (s : State) :
    (allocate n s).pinAux1 = s.pinAux1 := rfl
@[simp] theorem allocate_pinAux2 (n : Nat) (s : State) :
    (allocate n s).pinAux2 = s.pinAux2 := rfl
@[simp] theorem allocate_rangeMm (n : Nat) (s : State) :
    (allocate n s).rangeMm = s.rangeMm := rfl
@[simp] theorem allocate_intervalMs (n : Nat) (s : State) :
    (allocate n s).intervalMs = s.intervalMs := rfl
@[simp] theorem allocate_cbEn (n : Nat) (s : State) :
    (allocate n s).cbEn = s.cbEn := rfl
@[simp] theorem allocate_rx (n : Nat) (s : State) :
    (allocate n s).rx = ⟨[], .unspecified s.freeIx⟩ := rfl
@[simp] theorem allocate_tx (n : Nat) (s : State) :
    (allocate n s).tx = ⟨[], .unspecified (s.freeIx + 1)⟩ := rfl
@[simp] theorem allocate_out (n : Nat) (s : State) :
    (allocate n s).out = s.out := rfl
@[simp] theorem allocate_pinMode (n : Nat) (s : State) :
    (allocate n s).pinMode = s.pinMode := rfl
@[simp] theorem allocate_pinLevel (n : Nat) (s : State) :
    (allocate n s).pinLevel = s.pinLevel := rfl
@[simp] theorem allocate_draws (n : Nat) (s : State) :
    (allocate n s).draws = s.draws := rfl
@[simp] theorem allocate_agenda (n : Nat) (s : State) :
    (allocate n s).agenda = s.agenda := rfl
@[simp] theorem allocate_busData (n : Nat) (s : State) :
    (allocate n s).busData = s.busData := rfl
@[simp] theorem allocate_freeIx (n : Nat) (s : State) :
    (allocate n s).freeIx = s.freeIx + 2 := rfl

/-! ### prepareCycle -/

@[simp] theorem prepareCycle_config (s : State) :
    (prepareCycle s).config = s.config := rfl
@[simp] theorem prepareCycle_resp (s : State) :
    (prepareCycle s).resp = s.resp := rfl
@[simp] theorem prepareCycle_state (s : State) :
    (prepareCycle s).state = s.state := rfl
@[simp] theorem prepareCycle_alloc (s : State) :
    (prepareCycle s).alloc = s.alloc := rfl
@[simp] theorem prepareCycle_periph (s : State) :
    (prepareCycle s).periph = s.periph := rfl
@[simp] theorem prepareCycle_fResize (s : State) :
    (prepareCycle s).fResize = s.fResize := rfl
@[simp] theorem prepareCycle_fNobuf (s : State) :
    (prepareCycle s).fNobuf = s.fNobuf := rfl
@[simp] theorem prepareCycle_bufreq (s : State) :
    (prepareCycle s).bufreq = 0#32 := rfl
@[simp] theorem prepareCycle_numSamples (s : State) :
    (prepareCycle s).numSamples = s.numSamples := rfl
@[simp] theorem prepareCycle_startMs (s : State) :
    (prepareCycle s).startMs = s.startMs := rfl
@[simp] theorem prepareCycle_resultStatus (s : State) :
    (prepareCycle s).resultStatus = s.resultStatus := rfl
@[simp] theorem prepareCycle_resultCause (s : State) :
    (prepareCycle s).resultCause = s.resultCause := rfl
@[simp] theorem prepareCycle_resultSeq (s : State) :
    (prepareCycle s).resultSeq = s.resultSeq := rfl
@[simp] theorem prepareCycle_resultCount (s : State) :
    (prepareCycle s).resultCount = s.resultCount := rfl
@[simp] theorem prepareCycle_resultDistUm (s : State) :
    (prepareCycle s).resultDistUm = s.resultDistUm := rfl
@[simp] theorem prepareCycle_pinTrig (s : State) :
    (prepareCycle s).pinTrig = s.pinTrig := rfl
@[simp] theorem prepareCycle_pinEcho (s : State) :
    (prepareCycle s).pinEcho = s.pinEcho := rfl
@[simp] theorem prepareCycle_pinAux1 (s : State) :
    (prepareCycle s).pinAux1 = s.pinAux1 := rfl
@[simp] theorem prepareCycle_pinAux2 (s : State) :
    (prepareCycle s).pinAux2 = s.pinAux2 := rfl
@[simp] theorem prepareCycle_rangeMm (s : State) :
    (prepareCycle s).rangeMm = s.rangeMm := rfl
@[simp] theorem prepareCycle_intervalMs (s : State) :
    (prepareCycle s).intervalMs = s.intervalMs := rfl
@[simp] theorem prepareCycle_cbEn (s : State) :
    (prepareCycle s).cbEn = s.cbEn := rfl
@[simp] theorem prepareCycle_rx (s : State) :
    (prepareCycle s).rx = Memory.zeroed := rfl
@[simp] theorem prepareCycle_tx (s : State) :
    (prepareCycle s).tx = Memory.zeroed.writeIn s.numSamples.toNat 0 s.config.triggerWord := rfl
@[simp] theorem prepareCycle_out (s : State) :
    (prepareCycle s).out = s.out := rfl
@[simp] theorem prepareCycle_pinMode (s : State) :
    (prepareCycle s).pinMode = s.pinMode := rfl
@[simp] theorem prepareCycle_pinLevel (s : State) :
    (prepareCycle s).pinLevel = s.pinLevel := rfl
@[simp] theorem prepareCycle_draws (s : State) :
    (prepareCycle s).draws = s.draws := rfl
@[simp] theorem prepareCycle_agenda (s : State) :
    (prepareCycle s).agenda = s.agenda := rfl
@[simp] theorem prepareCycle_busData (s : State) :
    (prepareCycle s).busData = s.busData := rfl
@[simp] theorem prepareCycle_freeIx (s : State) :
    (prepareCycle s).freeIx = s.freeIx := rfl

/-! ### enterSampling -/

@[simp] theorem enterSampling_config (now : Word) (s : State) :
    (enterSampling now s).config = s.config := rfl
@[simp] theorem enterSampling_resp (now : Word) (s : State) :
    (enterSampling now s).resp = s.resp := rfl
@[simp] theorem enterSampling_state (now : Word) (s : State) :
    (enterSampling now s).state = .sampling := rfl
@[simp] theorem enterSampling_alloc (now : Word) (s : State) :
    (enterSampling now s).alloc = s.alloc := rfl
@[simp] theorem enterSampling_periph (now : Word) (s : State) :
    (enterSampling now s).periph = .running := rfl
@[simp] theorem enterSampling_fResize (now : Word) (s : State) :
    (enterSampling now s).fResize = s.fResize := rfl
@[simp] theorem enterSampling_fNobuf (now : Word) (s : State) :
    (enterSampling now s).fNobuf = s.fNobuf := rfl
@[simp] theorem enterSampling_bufreq (now : Word) (s : State) :
    (enterSampling now s).bufreq = s.bufreq := rfl
@[simp] theorem enterSampling_numSamples (now : Word) (s : State) :
    (enterSampling now s).numSamples = s.numSamples := rfl
@[simp] theorem enterSampling_startMs (now : Word) (s : State) :
    (enterSampling now s).startMs = now := rfl
@[simp] theorem enterSampling_resultStatus (now : Word) (s : State) :
    (enterSampling now s).resultStatus = s.resultStatus := rfl
@[simp] theorem enterSampling_resultCause (now : Word) (s : State) :
    (enterSampling now s).resultCause = s.resultCause := rfl
@[simp] theorem enterSampling_resultSeq (now : Word) (s : State) :
    (enterSampling now s).resultSeq = s.resultSeq := rfl
@[simp] theorem enterSampling_resultCount (now : Word) (s : State) :
    (enterSampling now s).resultCount = s.resultCount := rfl
@[simp] theorem enterSampling_resultDistUm (now : Word) (s : State) :
    (enterSampling now s).resultDistUm = s.resultDistUm := rfl
@[simp] theorem enterSampling_pinTrig (now : Word) (s : State) :
    (enterSampling now s).pinTrig = s.pinTrig := rfl
@[simp] theorem enterSampling_pinEcho (now : Word) (s : State) :
    (enterSampling now s).pinEcho = s.pinEcho := rfl
@[simp] theorem enterSampling_pinAux1 (now : Word) (s : State) :
    (enterSampling now s).pinAux1 = s.pinAux1 := rfl
@[simp] theorem enterSampling_pinAux2 (now : Word) (s : State) :
    (enterSampling now s).pinAux2 = s.pinAux2 := rfl
@[simp] theorem enterSampling_rangeMm (now : Word) (s : State) :
    (enterSampling now s).rangeMm = s.rangeMm := rfl
@[simp] theorem enterSampling_intervalMs (now : Word) (s : State) :
    (enterSampling now s).intervalMs = s.intervalMs := rfl
@[simp] theorem enterSampling_cbEn (now : Word) (s : State) :
    (enterSampling now s).cbEn = s.cbEn := rfl
@[simp] theorem enterSampling_rx (now : Word) (s : State) :
    (enterSampling now s).rx = s.rx := rfl
@[simp] theorem enterSampling_tx (now : Word) (s : State) :
    (enterSampling now s).tx = s.tx := rfl
@[simp] theorem enterSampling_out (now : Word) (s : State) :
    (enterSampling now s).out = s.out := rfl
@[simp] theorem enterSampling_pinMode (now : Word) (s : State) :
    (enterSampling now s).pinMode = s.pinMode := rfl
@[simp] theorem enterSampling_pinLevel (now : Word) (s : State) :
    (enterSampling now s).pinLevel = s.pinLevel := rfl
@[simp] theorem enterSampling_draws (now : Word) (s : State) :
    (enterSampling now s).draws = s.draws := rfl
@[simp] theorem enterSampling_agenda (now : Word) (s : State) :
    (enterSampling now s).agenda = s.agenda := rfl
@[simp] theorem enterSampling_busData (now : Word) (s : State) :
    (enterSampling now s).busData = s.busData := rfl
@[simp] theorem enterSampling_freeIx (now : Word) (s : State) :
    (enterSampling now s).freeIx = s.freeIx := rfl

/-! ### samplingExit -/

@[simp] theorem samplingExit_config (s : State) :
    (samplingExit s).config = s.config := by simp [samplingExit]
@[simp] theorem samplingExit_resp (s : State) :
    (samplingExit s).resp = s.resp := by simp [samplingExit]
@[simp] theorem samplingExit_state (s : State) :
    (samplingExit s).state = s.state := by simp [samplingExit]
@[simp] theorem samplingExit_alloc (s : State) :
    (samplingExit s).alloc = s.alloc := by simp [samplingExit]
@[simp] theorem samplingExit_periph (s : State) :
    (samplingExit s).periph = .uninit := by simp [samplingExit]
@[simp] theorem samplingExit_fResize (s : State) :
    (samplingExit s).fResize = s.fResize := by simp [samplingExit]
@[simp] theorem samplingExit_fNobuf (s : State) :
    (samplingExit s).fNobuf = s.fNobuf := by simp [samplingExit]
@[simp] theorem samplingExit_bufreq (s : State) :
    (samplingExit s).bufreq = s.bufreq := by simp [samplingExit]
@[simp] theorem samplingExit_numSamples (s : State) :
    (samplingExit s).numSamples = s.numSamples := by simp [samplingExit]
@[simp] theorem samplingExit_startMs (s : State) :
    (samplingExit s).startMs = s.startMs := by simp [samplingExit]
@[simp] theorem samplingExit_resultStatus (s : State) :
    (samplingExit s).resultStatus = s.resultStatus := by simp [samplingExit]
@[simp] theorem samplingExit_resultCause (s : State) :
    (samplingExit s).resultCause = s.resultCause := by simp [samplingExit]
@[simp] theorem samplingExit_resultSeq (s : State) :
    (samplingExit s).resultSeq = s.resultSeq := by simp [samplingExit]
@[simp] theorem samplingExit_resultCount (s : State) :
    (samplingExit s).resultCount = s.resultCount := by simp [samplingExit]
@[simp] theorem samplingExit_resultDistUm (s : State) :
    (samplingExit s).resultDistUm = s.resultDistUm := by simp [samplingExit]
@[simp] theorem samplingExit_pinTrig (s : State) :
    (samplingExit s).pinTrig = s.pinTrig := by simp [samplingExit]
@[simp] theorem samplingExit_pinEcho (s : State) :
    (samplingExit s).pinEcho = s.pinEcho := by simp [samplingExit]
@[simp] theorem samplingExit_pinAux1 (s : State) :
    (samplingExit s).pinAux1 = s.pinAux1 := by simp [samplingExit]
@[simp] theorem samplingExit_pinAux2 (s : State) :
    (samplingExit s).pinAux2 = s.pinAux2 := by simp [samplingExit]
@[simp] theorem samplingExit_rangeMm (s : State) :
    (samplingExit s).rangeMm = s.rangeMm := by simp [samplingExit]
@[simp] theorem samplingExit_intervalMs (s : State) :
    (samplingExit s).intervalMs = s.intervalMs := by simp [samplingExit]
@[simp] theorem samplingExit_cbEn (s : State) :
    (samplingExit s).cbEn = s.cbEn := by simp [samplingExit]
@[simp] theorem samplingExit_rx (s : State) :
    (samplingExit s).rx = s.rx := by simp [samplingExit]
@[simp] theorem samplingExit_tx (s : State) :
    (samplingExit s).tx = s.tx := by simp [samplingExit]
@[simp] theorem samplingExit_out (s : State) :
    (samplingExit s).out = s.out ++ [.pUninit, .gpioWrite s.pinTrig false] := by simp [samplingExit]
@[simp] theorem samplingExit_pinMode (s : State) :
    (samplingExit s).pinMode = s.pinMode := by simp [samplingExit]
@[simp] theorem samplingExit_pinLevel (s : State) :
    (samplingExit s).pinLevel = levelsAfter s.config.numPins (.gpioWrite s.pinTrig false) s.pinLevel := by simp [samplingExit]
@[simp] theorem samplingExit_draws (s : State) :
    (samplingExit s).draws = s.draws := by simp [samplingExit]
@[simp] theorem samplingExit_agenda (s : State) :
    (samplingExit s).agenda = s.agenda := by simp [samplingExit]
@[simp] theorem samplingExit_busData (s : State) :
    (samplingExit s).busData = s.busData := by simp [samplingExit]
@[simp] theorem samplingExit_freeIx (s : State) :
    (samplingExit s).freeIx = s.freeIx := by simp [samplingExit]

/-! ### configurePins -/

@[simp] theorem configurePins_config (t e a1 a2 : Pin) (s : State) :
    (configurePins t e a1 a2 s).config = s.config := by simp [configurePins]
@[simp] theorem configurePins_resp (t e a1 a2 : Pin) (s : State) :
    (configurePins t e a1 a2 s).resp = s.resp := by simp [configurePins]
@[simp] theorem configurePins_state (t e a1 a2 : Pin) (s : State) :
    (configurePins t e a1 a2 s).state = s.state := by simp [configurePins]
@[simp] theorem configurePins_alloc (t e a1 a2 : Pin) (s : State) :
    (configurePins t e a1 a2 s).alloc = s.alloc := by simp [configurePins]
@[simp] theorem configurePins_periph (t e a1 a2 : Pin) (s : State) :
    (configurePins t e a1 a2 s).periph = s.periph := by simp [configurePins]
@[simp] theorem configurePins_fResize (t e a1 a2 : Pin) (s : State) :
    (configurePins t e a1 a2 s).fResize = s.fResize := by simp [configurePins]
@[simp] theorem configurePins_fNobuf (t e a1 a2 : Pin) (s : State) :
    (configurePins t e a1 a2 s).fNobuf = s.fNobuf := by simp [configurePins]
@[simp] theorem configurePins_bufreq (t e a1 a2 : Pin) (s : State) :
    (configurePins t e a1 a2 s).bufreq = s.bufreq := by simp [configurePins]
@[simp] theorem configurePins_numSamples (t e a1 a2 : Pin) (s : State) :
    (configurePins t e a1 a2 s).numSamples = s.numSamples := by simp [configurePins]
@[simp] theorem configurePins_startMs (t e a1 a2 : Pin) (s : State) :
    (configurePins t e a1 a2 s).startMs = s.startMs := by simp [configurePins]
@[simp] theorem configurePins_resultStatus (t e a1 a2 : Pin) (s : State) :
    (configurePins t e a1 a2 s).resultStatus = s.resultStatus := by simp [configurePins]
@[simp] theorem configurePins_resultCause (t e a1 a2 : Pin) (s : State) :
    (configurePins t e a1 a2 s).resultCause = s.resultCause := by simp [configurePins]
@[simp] theorem configurePins_resultSeq (t e a1 a2 : Pin) (s : State) :
    (configurePins t e a1 a2 s).resultSeq = s.resultSeq := by simp [configurePins]
@[simp] theorem configurePins_resultCount (t e a1 a2 : Pin) (s : State) :
    (configurePins t e a1 a2 s).resultCount = s.resultCount := by simp [configurePins]
@[simp] theorem configurePins_resultDistUm (t e a1 a2 : Pin) (s : State) :
    (configurePins t e a1 a2 s).resultDistUm = s.resultDistUm := by simp [configurePins]
@[simp] theorem configurePins_pinTrig (t e a1 a2 : Pin) (s : State) :
    (configurePins t e a1 a2 s).pinTrig = s.pinTrig := by simp [configurePins]
@[simp] theorem configurePins_pinEcho (t e a1 a2 : Pin) (s : State) :
    (configurePins t e a1 a2 s).pinEcho = s.pinEcho := by simp [configurePins]
@[simp] theorem configurePins_pinAux1 (t e a1 a2 : Pin) (s : State) :
    (configurePins t e a1 a2 s).pinAux1 = s.pinAux1 := by simp [configurePins]
@[simp] theorem configurePins_pinAux2 (t e a1 a2 : Pin) (s : State) :
    (configurePins t e a1 a2 s).pinAux2 = s.pinAux2 := by simp [configurePins]
@[simp] theorem configurePins_rangeMm (t e a1 a2 : Pin) (s : State) :
    (configurePins t e a1 a2 s).rangeMm = s.rangeMm := by simp [configurePins]
@[simp] theorem configurePins_intervalMs (t e a1 a2 : Pin) (s : State) :
    (configurePins t e a1 a2 s).intervalMs = s.intervalMs := by simp [configurePins]
@[simp] theorem configurePins_cbEn (t e a1 a2 : Pin) (s : State) :
    (configurePins t e a1 a2 s).cbEn = s.cbEn := by simp [configurePins]
@[simp] theorem configurePins_rx (t e a1 a2 : Pin) (s : State) :
    (configurePins t e a1 a2 s).rx = s.rx := by simp [configurePins]
@[simp] theorem configurePins_tx (t e a1 a2 : Pin) (s : State) :
    (configurePins t e a1 a2 s).tx = s.tx := by simp [configurePins]
@[simp] theorem configurePins_out (t e a1 a2 : Pin) (s : State) :
    (configurePins t e a1 a2 s).out = s.out ++ [.gpioMode t .output, .gpioWrite t false, .gpioMode e .input,
        .gpioMode a1 .output, .gpioMode a2 .output] := by simp [configurePins]
@[simp] theorem configurePins_pinMode (t e a1 a2 : Pin) (s : State) :
    (configurePins t e a1 a2 s).pinMode = modesAfter s.config.numPins (.gpioMode a2 .output)
        (modesAfter s.config.numPins (.gpioMode a1 .output)
          (modesAfter s.config.numPins (.gpioMode e .input)
            (modesAfter s.config.numPins (.gpioMode t .output) s.pinMode))) := by simp [configurePins]
@[simp] theorem configurePins_pinLevel (t e a1 a2 : Pin) (s : State) :
    (configurePins t e a1 a2 s).pinLevel = levelsAfter s.config.numPins (.gpioWrite t false) s.pinLevel := by simp [configurePins]
@[simp] theorem configurePins_draws (t e a1 a2 : Pin) (s : State) :
    (configurePins t e a1 a2 s).draws = s.draws := by simp [configurePins]
@[simp] theorem configurePins_agenda (t e a1 a2 : Pin) (s : State) :
    (configurePins t e a1 a2 s).agenda = s.agenda := by simp [configurePins]
@[simp] theorem configurePins_busData (t e a1 a2 : Pin) (s : State) :
    (configurePins t e a1 a2 s).busData = s.busData := by simp [configurePins]
@[simp] theorem configurePins_freeIx (t e a1 a2 : Pin) (s : State) :
    (configurePins t e a1 a2 s).freeIx = s.freeIx := by simp [configurePins]

/-! ### applyReset -/

@[simp] theorem applyReset_config (s : State) :
    (applyReset s).config = s.config := rfl
@[simp] theorem applyReset_resp (s : State) :
    (applyReset s).resp = (State.resetWith s.config).resp := rfl
@[simp] theorem applyReset_state (s : State) :
    (applyReset s).state = (State.resetWith s.config).state := rfl
@[simp] theorem applyReset_alloc (s : State) :
    (applyReset s).alloc = (State.resetWith s.config).alloc := rfl
@[simp] theorem applyReset_periph (s : State) :
    (applyReset s).periph = (State.resetWith s.config).periph := rfl
@[simp] theorem applyReset_fResize (s : State) :
    (applyReset s).fResize = (State.resetWith s.config).fResize := rfl
@[simp] theorem applyReset_fNobuf (s : State) :
    (applyReset s).fNobuf = (State.resetWith s.config).fNobuf := rfl
@[simp] theorem applyReset_bufreq (s : State) :
    (applyReset s).bufreq = (State.resetWith s.config).bufreq := rfl
@[simp] theorem applyReset_numSamples (s : State) :
    (applyReset s).numSamples = (State.resetWith s.config).numSamples := rfl
@[simp] theorem applyReset_startMs (s : State) :
    (applyReset s).startMs = (State.resetWith s.config).startMs := rfl
@[simp] theorem applyReset_resultStatus (s : State) :
    (applyReset s).resultStatus = (State.resetWith s.config).resultStatus := rfl
@[simp] theorem applyReset_resultCause (s : State) :
    (applyReset s).resultCause = (State.resetWith s.config).resultCause := rfl
@[simp] theorem applyReset_resultSeq (s : State) :
    (applyReset s).resultSeq = (State.resetWith s.config).resultSeq := rfl
@[simp] theorem applyReset_resultCount (s : State) :
    (applyReset s).resultCount = (State.resetWith s.config).resultCount := rfl
@[simp] theorem applyReset_resultDistUm (s : State) :
    (applyReset s).resultDistUm = (State.resetWith s.config).resultDistUm := rfl
@[simp] theorem applyReset_pinTrig (s : State) :
    (applyReset s).pinTrig = (State.resetWith s.config).pinTrig := rfl
@[simp] theorem applyReset_pinEcho (s : State) :
    (applyReset s).pinEcho = (State.resetWith s.config).pinEcho := rfl
@[simp] theorem applyReset_pinAux1 (s : State) :
    (applyReset s).pinAux1 = (State.resetWith s.config).pinAux1 := rfl
@[simp] theorem applyReset_pinAux2 (s : State) :
    (applyReset s).pinAux2 = (State.resetWith s.config).pinAux2 := rfl
@[simp] theorem applyReset_rangeMm (s : State) :
    (applyReset s).rangeMm = (State.resetWith s.config).rangeMm := rfl
@[simp] theorem applyReset_intervalMs (s : State) :
    (applyReset s).intervalMs = (State.resetWith s.config).intervalMs := rfl
@[simp] theorem applyReset_cbEn (s : State) :
    (applyReset s).cbEn = (State.resetWith s.config).cbEn := rfl
@[simp] theorem applyReset_rx (s : State) :
    (applyReset s).rx = (State.resetWith s.config).rx := rfl
@[simp] theorem applyReset_tx (s : State) :
    (applyReset s).tx = (State.resetWith s.config).tx := rfl
@[simp] theorem applyReset_out (s : State) :
    (applyReset s).out = (State.resetWith s.config).out := rfl
@[simp] theorem applyReset_pinMode (s : State) :
    (applyReset s).pinMode = (State.resetWith s.config).pinMode := rfl
@[simp] theorem applyReset_pinLevel (s : State) :
    (applyReset s).pinLevel = (State.resetWith s.config).pinLevel := rfl
@[simp] theorem applyReset_draws (s : State) :
    (applyReset s).draws = s.draws := rfl
@[simp] theorem applyReset_agenda (s : State) :
    (applyReset s).agenda = s.agenda := rfl
@[simp] theorem applyReset_busData (s : State) :
    (applyReset s).busData = s.busData := rfl
@[simp] theorem applyReset_freeIx (s : State) :
    (applyReset s).freeIx = s.freeIx := rfl

/-! ### Derived views -/

@[simp] theorem respond_faulted (ok : Bool) (err : ErrCode) (data : BitVec 16) (s : State) :
    (respond ok err data s).faulted = s.faulted := rfl
@[simp] theorem succeed_faulted (data : BitVec 16) (s : State) :
    (succeed data s).faulted = s.faulted := rfl
@[simp] theorem reject_faulted (err : ErrCode) (s : State) :
    (reject err s).faulted = s.faulted := rfl
@[simp] theorem redraw_faulted (s : State) : (redraw s).faulted = s.faulted := rfl
@[simp] theorem raiseFault_faulted (f : FaultBit) (s : State) : (raiseFault f s).faulted = true := by
  cases f <;> simp [State.faulted, raiseFault]
@[simp] theorem resetWith_faulted (c : Config) : (State.resetWith c).faulted = false := rfl

end Sys2Proof.Machine
end

