-- ==== Sys2Proof/Laws/Compute.lean ====
section
/-!
SUPPORT. The arithmetic of the compute unit, of the clock and of the buffer length, as exact numbers; and
the parameters' constraints as separate facts.
-/

namespace Sys2Proof.Machine

/-- R8's constraints, one conjunct each. -/
theorem wf_parts {c : Config} (h : c.wf = true) :
    c.leadingOverheadSamples % 4 = 0 ∧ c.wordsPerRangeUnit % 4 = 0 ∧ 1 ≤ c.numPins
      ∧ c.numPins ≤ 255 ∧ c.leadingOverheadSamples ≤ c.bufCapacityWords
      ∧ 16 * c.bufCapacityWords * c.soundHalfSpeed < 2 ^ 32 ∧ 1 ≤ c.bufsForComplete
      ∧ c.samplingTimeoutMs < 2 ^ 31 ∧ c.regBase % 4 = 0 ∧ 16 * c.bufCapacityWords < 2 ^ 32 := by
  simpa [Config.wf, and_assoc] using h

/-- A sum of bounded terms is bounded. -/
theorem sumBelow_le (f : Nat → Nat) (b : Nat) (hf : ∀ i, f i ≤ b) (n : Nat) :
    sumBelow f n ≤ b * n := by
  induction n with
  | zero => simp [sumBelow]
  | succ n ih => have := hf n; simp only [sumBelow, Nat.mul_succ]; omega

/-- The compute unit's sum as a list sum. -/
theorem sumBelow_eq_sum (f : Nat → Nat) (n : Nat) : sumBelow f n = ((List.range n).map f).sum := by
  induction n with
  | zero => rfl
  | succ n ih => simp [sumBelow, ih, List.range_succ]

/-- A sum of zeros. -/
theorem sumBelow_zero {f : Nat → Nat} {n : Nat} (h : ∀ i < n, f i = 0) : sumBelow f n = 0 := by
  induction n with
  | zero => rfl
  | succ n ih => simp only [sumBelow]; rw [ih fun i hi => h i (by omega), h n (by omega)]

/-- A sum with one term that is not zero. -/
theorem sumBelow_single {f : Nat → Nat} {n i : Nat} (hi : i < n) (h : ∀ j, j ≠ i → f j = 0) :
    sumBelow f n = f i := by
  induction n with
  | zero => omega
  | succ n ih =>
    simp only [sumBelow]
    by_cases hn : i = n
    · subst hn; rw [sumBelow_zero fun j hj => h j (by omega)]; omega
    · rw [ih (by omega), h n (fun e => hn e.symm), Nat.add_zero]

/-- At most one a bit. -/
theorem popcount16_le (w : Sample) : popcount16 w ≤ 16 := by
  have := sumBelow_le (fun k => (w.getLsbD k).toNat) 1 (fun k => Bool.toNat_le _) 16
  simpa [popcount16] using this

@[simp] theorem popcount16_zero : popcount16 0#16 = 0 := by decide

/-- N is at most 16 a word (R193). -/
theorem echoSum_le (s : State) : echoSum s ≤ 16 * s.numSamples.toNat :=
  sumBelow_le _ 16 (fun _ => popcount16_le _) _

/-- N of a state depends on RX and its length only. -/
theorem echoSum_congr {s t : State} (h : t.rx = s.rx) (hn : t.numSamples = s.numSamples) :
    echoSum t = echoSum s := by simp [echoSum, h, hn]

/-- The elapsed time as exact arithmetic modulo 2^32 (R261). -/
theorem elapsed_toNat (now : Word) (s : State) :
    (elapsed now s).toNat = (now.toNat + 2 ^ 32 - s.startMs.toNat) % 2 ^ 32 := by
  have := now.isLt
  have := s.startMs.isLt
  simp only [elapsed, BitVec.toNat_sub]
  omega

/-- The buffer length is a multiple of 4 (R142). -/
theorem numSamplesFor_mod {c : Config} (h : c.wf = true) (mm : Nat) :
    numSamplesFor c mm % 4 = 0 := by
  obtain ⟨h1, h2, -⟩ := wf_parts h
  simp [numSamplesFor, Nat.add_mod, Nat.mul_mod, h1, h2]

/-- The buffer length covers the overhead (R142). -/
theorem le_numSamplesFor (c : Config) (mm : Nat) :
    c.leadingOverheadSamples ≤ numSamplesFor c mm := Nat.le_add_right _ _

/-- A length within the capacity fits a register (R8). -/
theorem lt_of_le_capacity {c : Config} (h : c.wf = true) {n : Nat} (hn : n ≤ c.bufCapacityWords) :
    n < 2 ^ 32 := by
  obtain ⟨-, -, -, -, -, -, -, -, -, hc⟩ := wf_parts h
  omega

/-- The distance of a sum within the capacity fits a register (R8, R195). -/
theorem distance_lt {c : Config} (h : c.wf = true) {N : Nat} (hN : N ≤ 16 * c.bufCapacityWords) :
    N * c.soundHalfSpeed < 2 ^ 32 := by
  obtain ⟨-, -, -, -, -, hc, -⟩ := wf_parts h
  exact lt_of_le_of_lt (Nat.mul_le_mul_right _ hN) hc

/-- What a passed pin check says (R141). -/
theorem pinsOk_parts {c : Config} {t e a1 a2 : Pin} (h : pinsOk c t e a1 a2 = true) :
    t.toNat < c.numPins ∧ e.toNat < c.numPins ∧ a1.toNat < c.numPins ∧ a2.toNat < c.numPins
      ∧ t ≠ e ∧ t ≠ a1 ∧ t ≠ a2 ∧ e ≠ a1 ∧ e ≠ a2 ∧ a1 ≠ a2 := by
  simpa [pinsOk, and_assoc] using h

/-- Metres back to micrometres: nothing is rounded (R194). -/
theorem metersOfUm_mul (um : Word) : metersOfUm um * 10 ^ 6 = um.toNat := by
  unfold metersOfUm
  exact div_mul_cancel₀ _ (by norm_num)

/-- The last result depends on two RESULT registers only. -/
theorem lastResult_congr {s t : State} (hs : t.resultStatus = s.resultStatus)
    (hd : t.resultDistUm = s.resultDistUm) : lastResult t = lastResult s := by
  simp [lastResult, hs, hd]

/-- No fault bit is set, as two facts (R255). -/
theorem faulted_false {s : State} (h : s.faulted = false) : s.fResize = false ∧ s.fNobuf = false := by
  simpa [State.faulted] using h

end Sys2Proof.Machine
end

