-- ==== Sys2Proof/Laws/Decode.lean ====
section
/-!
SUPPORT. The fields of a command word, and what the decoder can answer, said once.
-/

namespace Sys2Proof

/-! ### Fields -/

theorem commandWord_bit (opc : BitVec 8) (o : BitVec 24) (k : Nat) :
    (commandWord opc o).getLsbD k = if k < 24 then o.getLsbD k else opc.getLsbD (k - 24) := by
  have h : (commandWord opc o).getLsbD k = (opc ++ o).getLsbD k := rfl
  rw [h, BitVec.getLsbD_append]

@[simp] theorem opcField_commandWord (opc : BitVec 8) (o : BitVec 24) :
    opcField (commandWord opc o) = opc := by
  apply BitVec.eq_of_getLsbD_eq; intro k hk
  simp [opcField, commandWord_bit, hk]

@[simp] theorem operandField_commandWord (opc : BitVec 8) (o : BitVec 24) :
    operandField (commandWord opc o) = o := by
  apply BitVec.eq_of_getLsbD_eq; intro k hk
  simp [operandField, commandWord_bit, hk]

/-- A word is its two fields. -/
theorem commandWord_fields (w : Word) : commandWord (opcField w) (operandField w) = w := by
  apply BitVec.eq_of_getLsbD_eq; intro k hk
  simp only [operandField, opcField, BitVec.getLsbD_extractLsb', commandWord_bit]
  split
  · simp_all
  · rw [show 24 + (k - 24) = k by omega]; simp; omega

/-- The value bits of a zero-extended operand. -/
theorem low_setWidth {n : Nat} (p : BitVec n) (h : n ≤ 24) :
    (p.setWidth 24).extractLsb' 0 n = p := by
  apply BitVec.eq_of_getLsbD_eq; intro k hk
  simp [BitVec.getLsbD_setWidth, hk]; omega

/-- The must-be-zero bits of a zero-extended operand. -/
theorem high_setWidth {n m : Nat} (p : BitVec n) : (p.setWidth 24).extractLsb' n m = 0#m := by
  apply BitVec.eq_of_getLsbD_eq; intro k hk
  simp [BitVec.getLsbD_extractLsb', BitVec.getLsbD_setWidth]

/-- An operand whose must-be-zero bits are zero is its value, extended. -/
theorem setWidth_low {n m : Nat} (o : BitVec 24) (hn : n + m = 24)
    (h : o.extractLsb' n m = 0#m) : (o.extractLsb' 0 n).setWidth 24 = o := by
  apply BitVec.eq_of_getLsbD_eq; intro k hk
  simp only [BitVec.getLsbD_extractLsb', BitVec.getLsbD_setWidth]
  by_cases hkn : k < n
  · simp [hkn, hk]
  · have e := congrArg (fun v => v.getLsbD (k - n)) h
    simp only [BitVec.getLsbD_extractLsb', BitVec.getLsbD_zero] at e
    rw [show n + (k - n) = k by omega] at e
    simp [hkn]; simpa [show k - n < m by omega] using e.symm

/-! ### Operand readers -/

@[simp] theorem operandP_setWidth (p : Pin) : operandP (p.setWidth 24) = some p := by
  unfold operandP; rw [high_setWidth, low_setWidth _ (by omega)]; simp

@[simp] theorem operandW16_setWidth (v : Sample) : operandW16 (v.setWidth 24) = some v := by
  unfold operandW16; rw [high_setWidth, low_setWidth _ (by omega)]; simp

@[simp] theorem operandB_setWidth (b : Bool) :
    operandB ((BitVec.ofBool b).setWidth 24) = some b := by cases b <;> decide

theorem operandN_some {o : BitVec 24} (h : operandN o = some ()) : o = 0#24 := by
  simpa [operandN] using h

theorem operandP_some {o : BitVec 24} {p : Pin} (h : operandP o = some p) : p.setWidth 24 = o := by
  simp only [operandP, Option.ite_none_right_eq_some, Option.some.injEq] at h
  obtain ⟨h, rfl⟩ := h
  exact setWidth_low o (by omega) h

theorem operandW16_some {o : BitVec 24} {v : Sample} (h : operandW16 o = some v) :
    v.setWidth 24 = o := by
  simp only [operandW16, Option.ite_none_right_eq_some, Option.some.injEq] at h
  obtain ⟨h, rfl⟩ := h
  exact setWidth_low o (by omega) h

theorem operandU24_some {o : BitVec 24} {u : U24} (h : operandU24 o = some u) : u = o := by
  simpa [operandU24] using h.symm

theorem operandB_some {o : BitVec 24} {b : Bool} (h : operandB o = some b) :
    (BitVec.ofBool b).setWidth 24 = o := by
  simp only [operandB, Option.ite_none_right_eq_some, Option.some.injEq] at h
  obtain ⟨h, rfl⟩ := h
  rw [← setWidth_low o (by omega : 1 + 23 = 24) h]
  congr 1; ext k hk; obtain rfl : k = 0 := by omega
  simp

/-! ### The decoder -/

/-- Everything the decoder can accept: the OPC and the operand of each row of R92. -/
theorem decode_ok {w : Word} {i : Instr} (h : decode w = .ok i) :
    (∃ p, i = .cfgTrig p ∧ opcField w = 0x01#8 ∧ operandP (operandField w) = some p)
      ∨ (∃ p, i = .cfgEcho p ∧ opcField w = 0x02#8 ∧ operandP (operandField w) = some p)
      ∨ (∃ p, i = .cfgAux1 p ∧ opcField w = 0x03#8 ∧ operandP (operandField w) = some p)
      ∨ (∃ p, i = .cfgAux2 p ∧ opcField w = 0x04#8 ∧ operandP (operandField w) = some p)
      ∨ (∃ u, i = .cfgRange u ∧ opcField w = 0x05#8 ∧ operandU24 (operandField w) = some u)
      ∨ (∃ u, i = .cfgInterval u ∧ opcField w = 0x06#8 ∧ operandU24 (operandField w) = some u)
      ∨ (∃ b, i = .cfgCallback b ∧ opcField w = 0x07#8 ∧ operandB (operandField w) = some b)
      ∨ (i = .setup ∧ opcField w = 0x10#8 ∧ operandN (operandField w) = some ())
      ∨ (i = .sampleOnce ∧ opcField w = 0x11#8 ∧ operandN (operandField w) = some ())
      ∨ (i = .advance ∧ opcField w = 0x12#8 ∧ operandN (operandField w) = some ())
      ∨ (i = .getResult ∧ opcField w = 0x13#8 ∧ operandN (operandField w) = some ())
      ∨ (∃ v, i = .popcnt16 v ∧ opcField w = 0x20#8 ∧ operandW16 (operandField w) = some v) := by
  unfold decode at h
  dsimp only at h
  have opc : ∀ n, (opcField w).toNat = n → opcField w = BitVec.ofNat 8 n := fun n e => by
    simp [← e]
  have read : ∀ {α : Type} (r : Option α) (mk : α → Instr),
      withOperand (opcField w) r mk = .ok i → ∃ a, i = mk a ∧ r = some a := by
    intro α r mk h
    cases r <;> simp [withOperand] at h
    exact ⟨_, h.symm, rfl⟩
  split at h
  case h_13 => cases h
  all_goals
    rename_i hc
    have ho := opc _ hc
    obtain ⟨a, hi, hr⟩ := read _ _ h
    simp [ho, hi, hr]

end Sys2Proof
end

