-- ==== Sys2Proof/Laws/Memory.lean ====
section
/-!
SUPPORT. The laws of the sample-buffer memory: every operation keeps the canonical form, a read after a
write to the same byte or word gives the value written, and a write leaves every other one alone.
-/

namespace Sys2Proof.Machine

/-! ### Sorted lists of cells -/

theorem cellsSorted_iff (l : List Host.Cell) :
    cellsSorted l = true ↔ l.Pairwise fun c d => c.1 < d.1 := by
  induction l with
  | nil => simp [cellsSorted]
  | cons c rest ih => simp [cellsSorted, ih]

theorem mem_insertCell {a : Nat} {b : Byte} {l : List Host.Cell} {x : Host.Cell}
    (h : x ∈ insertCell a b l) : x = (a, b) ∨ x ∈ l := by
  induction l with
  | nil => simpa [insertCell] using h
  | cons c rest ih =>
    unfold insertCell at h
    split at h
    · rcases List.mem_cons.mp h with h | h <;> simp [h]
    · split at h
      · rcases List.mem_cons.mp h with h | h <;> simp [h]
      · rcases List.mem_cons.mp h with h | h
        · simp [h]
        · rcases ih h with h | h <;> simp [h]

theorem mem_eraseCell {a : Nat} {l : List Host.Cell} {x : Host.Cell} (h : x ∈ eraseCell a l) :
    x ∈ l := by
  induction l with
  | nil => simp [eraseCell] at h
  | cons c rest ih =>
    unfold eraseCell at h
    split at h
    · exact List.mem_cons_of_mem _ h
    · rcases List.mem_cons.mp h with h | h
      · simp [h]
      · exact List.mem_cons_of_mem _ (ih h)

theorem cellsSorted_insertCell (a : Nat) (b : Byte) (l : List Host.Cell)
    (h : cellsSorted l = true) : cellsSorted (insertCell a b l) = true := by
  rw [cellsSorted_iff] at *
  induction l with
  | nil => simp [insertCell]
  | cons c rest ih =>
    obtain ⟨hc, hr⟩ := List.pairwise_cons.mp h
    unfold insertCell
    split
    · rename_i e
      exact List.pairwise_cons.mpr ⟨fun d hd => e ▸ hc d hd, hr⟩
    · split
      · rename_i lt
        refine List.pairwise_cons.mpr ⟨fun d hd => ?_, h⟩
        rcases List.mem_cons.mp hd with rfl | hd
        · exact lt
        · exact lt.trans (hc d hd)
      · refine List.pairwise_cons.mpr ⟨fun d hd => ?_, ih hr⟩
        rcases mem_insertCell hd with rfl | hd
        · show c.1 < a; omega
        · exact hc d hd

theorem cellsSorted_eraseCell (a : Nat) (l : List Host.Cell) (h : cellsSorted l = true) :
    cellsSorted (eraseCell a l) = true := by
  rw [cellsSorted_iff] at *
  induction l with
  | nil => simp [eraseCell]
  | cons c rest ih =>
    obtain ⟨hc, hr⟩ := List.pairwise_cons.mp h
    unfold eraseCell
    split
    · exact hr
    · exact List.pairwise_cons.mpr ⟨fun d hd => hc d (mem_eraseCell hd), ih hr⟩

/-! ### Lookup -/

theorem lookup_none_of_below {l : List Host.Cell} {a : Nat} (h : ∀ d ∈ l, a < d.1) :
    lookupCell l a = none := by
  induction l with
  | nil => rfl
  | cons c rest ih =>
    have hc := h c (by simp)
    simp only [lookupCell]
    rw [if_neg (by omega)]
    exact ih fun d hd => h d (by simp [hd])

@[simp] theorem lookup_insert_same (a : Nat) (b : Byte) (l : List Host.Cell) :
    lookupCell (insertCell a b l) a = some b := by
  induction l with
  | nil => simp [insertCell, lookupCell]
  | cons c rest ih =>
    unfold insertCell
    split
    · simp [lookupCell]
    · split <;> simp_all [lookupCell]

theorem lookup_insert_ne {a x : Nat} (b : Byte) (l : List Host.Cell) (h : a ≠ x) :
    lookupCell (insertCell a b l) x = lookupCell l x := by
  induction l with
  | nil => simp [insertCell, lookupCell, h]
  | cons c rest ih =>
    unfold insertCell
    split
    · simp_all [lookupCell]
    · split <;> simp_all [lookupCell]

theorem lookup_erase_same {a : Nat} {l : List Host.Cell} (h : cellsSorted l = true) :
    lookupCell (eraseCell a l) a = none := by
  rw [cellsSorted_iff] at h
  induction l with
  | nil => rfl
  | cons c rest ih =>
    obtain ⟨hc, hr⟩ := List.pairwise_cons.mp h
    unfold eraseCell
    split
    · rename_i e
      exact lookup_none_of_below fun d hd => e ▸ hc d hd
    · simp_all [lookupCell]

theorem lookup_erase_ne {a x : Nat} (l : List Host.Cell) (h : a ≠ x) :
    lookupCell (eraseCell a l) x = lookupCell l x := by
  induction l with
  | nil => rfl
  | cons c rest ih =>
    unfold eraseCell
    split
    · simp_all [lookupCell]
    · simp_all [lookupCell]

/-! ### The canonical form -/

theorem Memory.wf_iff (m : Memory) :
    m.wf = true ↔ cellsSorted m.cells = true ∧ ∀ c ∈ m.cells, c.2 ≠ m.fill.byte c.1 := by
  simp [Memory.wf]

theorem Memory.wf_sorted {m : Memory} (h : m.wf = true) : cellsSorted m.cells = true :=
  (m.wf_iff.mp h).1

@[simp] theorem zeroed_wf : Memory.zeroed.wf = true := rfl

@[simp] theorem unlisted_wf (f : Fill) : (Memory.mk [] f).wf = true := rfl

@[simp] theorem writeByte_fill (m : Memory) (a : Nat) (b : Byte) :
    (m.writeByte a b).fill = m.fill := by
  unfold Memory.writeByte; split <;> rfl

@[simp] theorem writeSample_fill (m : Memory) (i : Nat) (v : Sample) :
    (m.writeSample i v).fill = m.fill := by simp [Memory.writeSample]

@[simp] theorem writeIn_fill (m : Memory) (n i : Nat) (v : Sample) :
    (m.writeIn n i v).fill = m.fill := by
  unfold Memory.writeIn; split <;> simp

@[simp] theorem writeUnit_fill (m : Memory) (n u : Nat) (v : Word) :
    (m.writeUnit n u v).fill = m.fill := by simp [Memory.writeUnit]

theorem writeByte_wf {m : Memory} (a : Nat) (b : Byte) (h : m.wf = true) :
    (m.writeByte a b).wf = true := by
  obtain ⟨hs, hn⟩ := m.wf_iff.mp h
  unfold Memory.writeByte
  split
  · exact (Memory.wf_iff _).mpr ⟨cellsSorted_eraseCell a _ hs, fun c hc => hn c (mem_eraseCell hc)⟩
  · refine (Memory.wf_iff _).mpr ⟨cellsSorted_insertCell a b _ hs, fun c hc => ?_⟩
    rcases mem_insertCell hc with rfl | hc
    · assumption
    · exact hn c hc

theorem writeSample_wf {m : Memory} (i : Nat) (v : Sample) (h : m.wf = true) :
    (m.writeSample i v).wf = true := writeByte_wf _ _ (writeByte_wf _ _ h)

theorem writeIn_wf {m : Memory} (n i : Nat) (v : Sample) (h : m.wf = true) :
    (m.writeIn n i v).wf = true := by
  unfold Memory.writeIn
  split
  · exact writeSample_wf i v h
  · exact h

theorem writeUnit_wf {m : Memory} (n u : Nat) (v : Word) (h : m.wf = true) :
    (m.writeUnit n u v).wf = true := writeIn_wf _ _ _ (writeIn_wf _ _ _ h)

/-! ### The listed bytes stay inside the buffer -/

theorem Memory.within_iff (m : Memory) (n : Nat) :
    m.within n = true ↔ ∀ c ∈ m.cells, c.1 < 2 * n := by simp [Memory.within]

@[simp] theorem zeroed_within (n : Nat) : Memory.zeroed.within n = true := rfl

@[simp] theorem unlisted_within (f : Fill) (n : Nat) : (Memory.mk [] f).within n = true := rfl

theorem writeByte_within {m : Memory} {n a : Nat} (b : Byte) (ha : a < 2 * n)
    (h : m.within n = true) : (m.writeByte a b).within n = true := by
  rw [Memory.within_iff] at *
  unfold Memory.writeByte
  split
  · exact fun c hc => h c (mem_eraseCell hc)
  · intro c hc
    rcases mem_insertCell hc with rfl | hc
    · exact ha
    · exact h c hc

theorem writeIn_within {m : Memory} {n : Nat} (i : Nat) (v : Sample) (h : m.within n = true) :
    (m.writeIn n i v).within n = true := by
  unfold Memory.writeIn
  split
  · exact writeByte_within _ (by omega) (writeByte_within _ (by omega) h)
  · exact h

theorem writeUnit_within {m : Memory} {n : Nat} (u : Nat) (v : Word) (h : m.within n = true) :
    (m.writeUnit n u v).within n = true := writeIn_within _ _ (writeIn_within _ _ h)

/-! ### Reads after writes -/

theorem readByte_writeByte_same {m : Memory} (a : Nat) (b : Byte) (h : m.wf = true) :
    (m.writeByte a b).readByte a = b := by
  unfold Memory.writeByte
  split
  · simp_all [Memory.readByte, lookup_erase_same (Memory.wf_sorted h)]
  · simp [Memory.readByte]

theorem readByte_writeByte_ne (m : Memory) {a x : Nat} (b : Byte) (h : a ≠ x) :
    (m.writeByte a b).readByte x = m.readByte x := by
  unfold Memory.writeByte
  split
  · simp [Memory.readByte, lookup_erase_ne _ h]
  · simp [Memory.readByte, lookup_insert_ne _ _ h]

theorem readSample_writeSample_same {m : Memory} (i : Nat) (v : Sample) (h : m.wf = true) :
    (m.writeSample i v).readSample i = v := by
  unfold Memory.readSample Memory.writeSample
  rw [readByte_writeByte_same _ _ (writeByte_wf _ _ h), readByte_writeByte_ne _ _ (by omega),
    readByte_writeByte_same _ _ h]
  ext k hk
  simp only [BitVec.getElem_append, BitVec.getElem_extractLsb']
  split
  · simp [BitVec.getLsbD_eq_getElem (show k < 16 by omega)]
  · rename_i hk'
    rw [BitVec.getLsbD_eq_getElem (by omega)]
    congr 1; omega

theorem readSample_writeSample_ne (m : Memory) {i j : Nat} (v : Sample) (h : i ≠ j) :
    (m.writeSample i v).readSample j = m.readSample j := by
  unfold Memory.readSample Memory.writeSample
  rw [readByte_writeByte_ne _ _ (by omega), readByte_writeByte_ne _ _ (by omega),
    readByte_writeByte_ne _ _ (by omega), readByte_writeByte_ne _ _ (by omega)]

@[simp] theorem readSample_zeroed (i : Nat) : Memory.zeroed.readSample i = 0#16 := by
  simp [Memory.readSample, Memory.readByte, Memory.zeroed, lookupCell, Fill.byte]

end Sys2Proof.Machine
end

