-- ==== Sys2Proof/Laws/PerInstr.lean ====
section
/-!
SUPPORT. Facts about every command as syntax, one lemma a constructor. AsmWellFormed: its assembler line
passes R98's check. RowMatch: its word is a word of its own mnemonic's row of R92.
-/

namespace Sys2Proof.Laws

open Sys2Proof

/-- The line of the command has an operand that fits its field (R98). -/
def AsmWellFormed.Statement (i : Instr) : Prop := i.wf = true

/-- The word of the command matches the row of R92 that has its mnemonic. -/
def RowMatch.Statement (i : Instr) : Prop :=
  ∃ r ∈ opcodeRows, r.mnemonic = i.toAsm.mnemonic ∧ encode i &&& r.mask = r.pattern

/-- A value's number is below its field's bound. -/
theorem toNat_fits {n : Nat} (v : BitVec n) : decide (v.toNat < 2 ^ n) = true := by
  simpa using v.isLt

/-- A command word under a mask made of the same two fields. -/
theorem commandWord_and (opc m : BitVec 8) (o k : BitVec 24) :
    commandWord opc o &&& commandWord m k = commandWord (opc &&& m) (o &&& k) := by
  apply BitVec.eq_of_getLsbD_eq
  intro j hj
  simp only [BitVec.getLsbD_and, commandWord_bit]
  split <;> simp

/-- An operand of fewer than 24 value bits under a mask of the others. -/
theorem setWidth_and_zero {n : Nat} (v : BitVec n) (k : BitVec 24)
    (hk : ∀ j < n, k.getLsbD j = false) : v.setWidth 24 &&& k = 0#24 := by
  apply BitVec.eq_of_getLsbD_eq
  intro j hj
  simp only [BitVec.getLsbD_and, BitVec.getLsbD_setWidth, BitVec.getLsbD_zero]
  by_cases h : j < n
  · simp [hk j h]
  · simp [BitVec.getLsbD_of_ge v j (by omega)]

theorem AsmWellFormed.cfgTrig (p : Pin) : AsmWellFormed.Statement (.cfgTrig p) := toNat_fits p
theorem AsmWellFormed.cfgEcho (p : Pin) : AsmWellFormed.Statement (.cfgEcho p) := toNat_fits p
theorem AsmWellFormed.cfgAux1 (p : Pin) : AsmWellFormed.Statement (.cfgAux1 p) := toNat_fits p
theorem AsmWellFormed.cfgAux2 (p : Pin) : AsmWellFormed.Statement (.cfgAux2 p) := toNat_fits p
theorem AsmWellFormed.cfgRange (u : U24) : AsmWellFormed.Statement (.cfgRange u) := toNat_fits u
theorem AsmWellFormed.cfgInterval (u : U24) : AsmWellFormed.Statement (.cfgInterval u) := toNat_fits u
theorem AsmWellFormed.cfgCallback (b : Bool) : AsmWellFormed.Statement (.cfgCallback b) := by cases b <;> rfl
theorem AsmWellFormed.setup : AsmWellFormed.Statement (.setup) := rfl
theorem AsmWellFormed.sampleOnce : AsmWellFormed.Statement (.sampleOnce) := rfl
theorem AsmWellFormed.advance : AsmWellFormed.Statement (.advance) := rfl
theorem AsmWellFormed.getResult : AsmWellFormed.Statement (.getResult) := rfl
theorem AsmWellFormed.popcnt16 (v : Sample) : AsmWellFormed.Statement (.popcnt16 v) := toNat_fits v

theorem RowMatch.cfgTrig (p : Pin) : RowMatch.Statement (.cfgTrig p) :=
  ⟨⟨.CFG_TRIG, 0x01000000#32, 0xFFFFFF00#32⟩, by decide, rfl, by
    rw [show (0xFFFFFF00#32 : Word) = commandWord 0xFF#8 0xFFFF00#24 from rfl]
    simp only [encode, commandWord_and]
    rw [setWidth_and_zero p _ (by decide)]
    rfl⟩

theorem RowMatch.cfgEcho (p : Pin) : RowMatch.Statement (.cfgEcho p) :=
  ⟨⟨.CFG_ECHO, 0x02000000#32, 0xFFFFFF00#32⟩, by decide, rfl, by
    rw [show (0xFFFFFF00#32 : Word) = commandWord 0xFF#8 0xFFFF00#24 from rfl]
    simp only [encode, commandWord_and]
    rw [setWidth_and_zero p _ (by decide)]
    rfl⟩

theorem RowMatch.cfgAux1 (p : Pin) : RowMatch.Statement (.cfgAux1 p) :=
  ⟨⟨.CFG_AUX1, 0x03000000#32, 0xFFFFFF00#32⟩, by decide, rfl, by
    rw [show (0xFFFFFF00#32 : Word) = commandWord 0xFF#8 0xFFFF00#24 from rfl]
    simp only [encode, commandWord_and]
    rw [setWidth_and_zero p _ (by decide)]
    rfl⟩

theorem RowMatch.cfgAux2 (p : Pin) : RowMatch.Statement (.cfgAux2 p) :=
  ⟨⟨.CFG_AUX2, 0x04000000#32, 0xFFFFFF00#32⟩, by decide, rfl, by
    rw [show (0xFFFFFF00#32 : Word) = commandWord 0xFF#8 0xFFFF00#24 from rfl]
    simp only [encode, commandWord_and]
    rw [setWidth_and_zero p _ (by decide)]
    rfl⟩

theorem RowMatch.cfgRange (u : U24) : RowMatch.Statement (.cfgRange u) :=
  ⟨⟨.CFG_RANGE, 0x05000000#32, 0xFF000000#32⟩, by decide, rfl, by
    rw [show (0xFF000000#32 : Word) = commandWord 0xFF#8 0x000000#24 from rfl]
    simp only [encode, commandWord_and]
    rw [show u &&& 0x000000#24 = 0#24 by simp]
    rfl⟩

theorem RowMatch.cfgInterval (u : U24) : RowMatch.Statement (.cfgInterval u) :=
  ⟨⟨.CFG_INTERVAL, 0x06000000#32, 0xFF000000#32⟩, by decide, rfl, by
    rw [show (0xFF000000#32 : Word) = commandWord 0xFF#8 0x000000#24 from rfl]
    simp only [encode, commandWord_and]
    rw [show u &&& 0x000000#24 = 0#24 by simp]
    rfl⟩

theorem RowMatch.cfgCallback (b : Bool) : RowMatch.Statement (.cfgCallback b) :=
  ⟨⟨.CFG_CALLBACK, 0x07000000#32, 0xFFFFFFFE#32⟩, by decide, rfl, by cases b <;> decide⟩

theorem RowMatch.setup : RowMatch.Statement (.setup) :=
  ⟨⟨.SETUP, 0x10000000#32, 0xFFFFFFFF#32⟩, by decide, rfl, rfl⟩

theorem RowMatch.sampleOnce : RowMatch.Statement (.sampleOnce) :=
  ⟨⟨.SAMPLE_ONCE, 0x11000000#32, 0xFFFFFFFF#32⟩, by decide, rfl, rfl⟩

theorem RowMatch.advance : RowMatch.Statement (.advance) :=
  ⟨⟨.ADVANCE, 0x12000000#32, 0xFFFFFFFF#32⟩, by decide, rfl, rfl⟩

theorem RowMatch.getResult : RowMatch.Statement (.getResult) :=
  ⟨⟨.GET_RESULT, 0x13000000#32, 0xFFFFFFFF#32⟩, by decide, rfl, rfl⟩

theorem RowMatch.popcnt16 (v : Sample) : RowMatch.Statement (.popcnt16 v) :=
  ⟨⟨.POPCNT16, 0x20000000#32, 0xFFFF0000#32⟩, by decide, rfl, by
    rw [show (0xFFFF0000#32 : Word) = commandWord 0xFF#8 0xFF0000#24 from rfl]
    simp only [encode, commandWord_and]
    rw [setWidth_and_zero v _ (by decide)]
    rfl⟩

end Sys2Proof.Laws
end

