-- ==== Sys2Proof/Laws/Step.lean ====
section
/-!
SUPPORT. What the shared operations and a step can do, said once: each inversion lemma lists every case
of an operation that answers a next state, so that proofs cite it instead of unfolding the operation.
-/

namespace Sys2Proof.Machine

/-! ### The command checks -/

/-- A faulted PWS answers FAULTED and runs no body. -/
theorem command_faulted (body : State → State) {s : State} (h : s.faulted = true) :
    command body s = .next (reject .faulted s) := by simp [command, h]

/-- A PWS that is not faulted runs the body. -/
theorem command_usable (body : State → State) {s : State} (h : s.faulted = false) :
    command body s = .next (body s) := by simp [command, h]

/-- Everything a command can do. -/
theorem command_next {body : State → State} {s t : State} (h : command body s = .next t) :
    s.faulted = true ∧ t = reject .faulted s ∨ s.faulted = false ∧ t = body s := by
  unfold command at h
  cases hf : s.faulted <;> simp_all

theorem whenIdle_idle (body : State → State) {s : State} (h : s.state = .idle) :
    whenIdle body s = body s := by simp [whenIdle, h]

theorem whenIdle_busy (body : State → State) {s : State} (h : s.state ≠ .idle) :
    whenIdle body s = reject .busy s := by simp [whenIdle, h]

/-- Everything a command body that needs IDLE can do. -/
theorem whenIdle_cases (body : State → State) (s : State) :
    s.state = .idle ∧ whenIdle body s = body s
      ∨ s.state ≠ .idle ∧ whenIdle body s = reject .busy s := by
  by_cases h : s.state = .idle
  · exact .inl ⟨h, whenIdle_idle body h⟩
  · exact .inr ⟨h, whenIdle_busy body h⟩

/-- Everything a configuration command can do. -/
theorem configure_next {write : State → State} {s t : State} (h : configure write s = .next t) :
    t = reject .faulted s ∨ t = reject .busy s
      ∨ s.faulted = false ∧ s.state = .idle ∧ t = succeed 0#16 (write s) := by
  rcases command_next h with ⟨-, rfl⟩ | ⟨hf, rfl⟩
  · exact .inl rfl
  · rcases whenIdle_cases (fun s => succeed 0#16 (write s)) s with ⟨hi, e⟩ | ⟨-, e⟩ <;> rw [e]
    · exact .inr (.inr ⟨hf, hi, rfl⟩)
    · exact .inr (.inl rfl)

/-! ### SETUP -/

/-- Everything SETUP's buffer part can do. -/
theorem setupBuffers_cases (n : Nat) (s : State) :
    s.alloc = true ∧ n = s.numSamples.toNat ∧ setupBuffers n s = setupDone s
      ∨ s.alloc = true ∧ n ≠ s.numSamples.toNat ∧ setupBuffers n s = faultCommand .resize s
      ∨ s.alloc = false ∧ s.config.bufCapacityWords < n ∧ setupBuffers n s = reject .alloc s
      ∨ s.alloc = false ∧ n ≤ s.config.bufCapacityWords
        ∧ setupBuffers n s = setupDone (allocate n s) := by
  unfold setupBuffers
  cases ha : s.alloc
  · by_cases hc : s.config.bufCapacityWords < n
    · simp [hc]
    · simp [hc, Nat.le_of_not_lt hc]
  · by_cases hn : n = s.numSamples.toNat <;> simp [hn]

/-- Everything SETUP can do. -/
theorem execSetup_next {s t : State} (h : execSetup s = .next t) :
    (∃ e, t = reject e s)
      ∨ s.faulted = false ∧ s.state = .idle
        ∧ pinsOk s.config s.pinTrig s.pinEcho s.pinAux1 s.pinAux2 = true
        ∧ t = setupBuffers (numSamplesFor s.config s.rangeMm.toNat) s := by
  rcases command_next h with ⟨-, rfl⟩ | ⟨hf, rfl⟩
  · exact .inl ⟨_, rfl⟩
  · cases hp : pinsOk s.config s.pinTrig s.pinEcho s.pinAux1 s.pinAux2
    · exact .inl ⟨.config, by simp⟩
    · rcases whenIdle_cases
        (fun s => setupBuffers (numSamplesFor s.config s.rangeMm.toNat) s) s with ⟨hi, e⟩ | ⟨-, e⟩
      · exact .inr ⟨hf, hi, rfl, by simp [e]⟩
      · exact .inl ⟨.busy, by simp [e]⟩

/-- SETUP of a PWS that is not faulted. -/
theorem execSetup_usable {s : State} (h : s.faulted = false) :
    execSetup s = .next (if pinsOk s.config s.pinTrig s.pinEcho s.pinAux1 s.pinAux2 then
      whenIdle (fun s => setupBuffers (numSamplesFor s.config s.rangeMm.toNat) s) s
      else reject .config s) := command_usable _ h

/-- Everything SAMPLE_ONCE can do. -/
theorem execSampleOnce_next {s t : State} (h : execSampleOnce s = .next t) :
    (∃ e, t = reject e s)
      ∨ s.faulted = false ∧ s.state = .idle ∧ t = succeed 0#16 (setState .triggering s) := by
  rcases command_next h with ⟨-, rfl⟩ | ⟨hf, rfl⟩
  · exact .inl ⟨_, rfl⟩
  · rcases whenIdle_cases (fun s => succeed 0#16 (setState .triggering s)) s with
      ⟨hi, e⟩ | ⟨-, e⟩ <;> rw [e]
    · exact .inr ⟨hf, hi, rfl⟩
    · exact .inl ⟨_, rfl⟩

/-! ### ADVANCE -/

/-- Everything ADVANCE can do: one handler, or F_NOBUF. -/
theorem execAdvance_next {s t : State} (h : execAdvance s = .next t) :
    s.faulted = true ∧ t = reject .faulted s
      ∨ s.faulted = false ∧
        (s.state = .idle ∧ t = answerState (idleHandler s.draws.nowMs (redraw s))
          ∨ s.state = .triggering ∧ s.alloc = false ∧ t = faultCommand .nobuf (redraw s)
          ∨ s.state = .triggering ∧ s.alloc = true
            ∧ t = answerState (triggeringHandler s.draws (redraw s))
          ∨ s.state = .sampling
            ∧ t = answerState (samplingHandler s.draws.nowMs (redraw s))) := by
  rcases command_next h with h' | ⟨hf, rfl⟩
  · exact .inl h'
  · refine .inr ⟨hf, ?_⟩
    cases hs : s.state
    · simp
    · cases ha : s.alloc <;> simp
    · simp

/-- ADVANCE in IDLE. -/
theorem execAdvance_idle {s : State} (h : s.faulted = false) (hs : s.state = .idle) :
    execAdvance s = .next (answerState (idleHandler s.draws.nowMs (redraw s))) := by
  simp [execAdvance, command_usable _ h, hs]

/-- ADVANCE in TRIGGERING without buffers. -/
theorem execAdvance_nobuf {s : State} (h : s.faulted = false) (hs : s.state = .triggering)
    (ha : s.alloc = false) : execAdvance s = .next (faultCommand .nobuf (redraw s)) := by
  simp [execAdvance, command_usable _ h, hs, ha]

/-- ADVANCE in TRIGGERING with buffers. -/
theorem execAdvance_triggering {s : State} (h : s.faulted = false) (hs : s.state = .triggering)
    (ha : s.alloc = true) :
    execAdvance s = .next (answerState (triggeringHandler s.draws (redraw s))) := by
  simp [execAdvance, command_usable _ h, hs, ha]

/-- ADVANCE in SAMPLING. -/
theorem execAdvance_sampling {s : State} (h : s.faulted = false) (hs : s.state = .sampling) :
    execAdvance s = .next (answerState (samplingHandler s.draws.nowMs (redraw s))) := by
  simp [execAdvance, command_usable _ h, hs]

/-- Everything the IDLE handler can do. -/
theorem idleHandler_cases (now : Word) (s : State) :
    intervalDue now s = true ∧ idleHandler now s = setState .triggering s
      ∨ intervalDue now s = false ∧ idleHandler now s = s := by
  unfold idleHandler
  cases intervalDue now s <;> simp

/-- The state after P_INIT succeeded, the cycle was prepared and P_START was emitted (R165 to R167). -/
def startedCycle (s : State) : State :=
  let prepared := prepareCycle (setPeriph .init (emit (initAction s) s))
  emit (startAction prepared) prepared

/-- Everything the TRIGGERING handler can do. -/
theorem triggeringHandler_cases (d : Draws) (s : State) :
    d.initOk = false ∧ triggeringHandler d s = triggerFailed .initFail (emit (initAction s) s)
      ∨ d.initOk = true ∧ d.startOk = false
        ∧ triggeringHandler d s = triggerFailed .startFail (startedCycle s)
      ∨ d.initOk = true ∧ d.startOk = true
        ∧ triggeringHandler d s = enterSampling d.nowMs (startedCycle s) := by
  unfold triggeringHandler startedCycle
  cases d.initOk <;> cases d.startOk <;> simp

/-- Everything the SAMPLING handler can do. -/
theorem samplingHandler_cases (now : Word) (s : State) :
    transferComplete s = true
        ∧ samplingHandler now s = setState .idle (recordSuccess (samplingExit s))
      ∨ transferComplete s = false ∧ timedOut now s = true
        ∧ samplingHandler now s
          = setState .idle (record .error .timeout 0#32 0#32 (samplingExit s))
      ∨ transferComplete s = false ∧ timedOut now s = false ∧ samplingHandler now s = s := by
  unfold samplingHandler
  cases transferComplete s <;> cases timedOut now s <;> simp

/-! ### Commands -/

/-- A write of one configuration field touches no other kind of state. -/
theorem configure_next_of {write : State → State} {s t : State} (h : configure write s = .next t) :
    (∃ e, t = reject e s)
      ∨ s.faulted = false ∧ s.state = .idle ∧ t = succeed 0#16 (write s) := by
  rcases configure_next h with rfl | rfl | h
  · exact .inl ⟨_, rfl⟩
  · exact .inl ⟨_, rfl⟩
  · exact .inr h

/-- Everything a command can do: it is turned away, or it writes configuration fields in IDLE, or it
is SETUP, SAMPLE_ONCE or ADVANCE, or it only answers. -/
theorem exec_next {i : Instr} {s t : State} (h : exec i s = .next t) :
    (∃ e, t = reject e s)
      ∨ s.faulted = false ∧
        ((s.state = .idle ∧ ∃ p e a b r iv cb,
            t = succeed 0#16
              { s with
                pinTrig := p, pinEcho := e, pinAux1 := a, pinAux2 := b, rangeMm := r,
                intervalMs := iv, cbEn := cb })
          ∨ (i = .setup ∧ s.state = .idle
            ∧ pinsOk s.config s.pinTrig s.pinEcho s.pinAux1 s.pinAux2 = true
            ∧ t = setupBuffers (numSamplesFor s.config s.rangeMm.toNat) s)
          ∨ (i = .sampleOnce ∧ s.state = .idle ∧ t = succeed 0#16 (setState .triggering s))
          ∨ (i = .advance ∧ execAdvance s = .next t)
          ∨ ∃ d, t = succeed d s) := by
  cases i with
  | setup =>
    rcases execSetup_next h with h | ⟨hf, hi, hp, rfl⟩
    · exact .inl h
    · exact .inr ⟨hf, .inr (.inl ⟨rfl, hi, hp, rfl⟩)⟩
  | sampleOnce =>
    rcases execSampleOnce_next h with h | ⟨hf, hi, rfl⟩
    · exact .inl h
    · exact .inr ⟨hf, .inr (.inr (.inl ⟨rfl, hi, rfl⟩))⟩
  | advance =>
    cases hf : s.faulted
    · exact .inr ⟨rfl, .inr (.inr (.inr (.inl ⟨rfl, h⟩)))⟩
    · rcases execAdvance_next h with ⟨-, rfl⟩ | ⟨h, -⟩
      · exact .inl ⟨_, rfl⟩
      · simp [hf] at h
  | getResult =>
    rcases command_next h with ⟨-, rfl⟩ | ⟨hf, rfl⟩
    · exact .inl ⟨_, rfl⟩
    · exact .inr ⟨hf, .inr (.inr (.inr (.inr ⟨_, rfl⟩)))⟩
  | popcnt16 v =>
    rcases command_next h with ⟨-, rfl⟩ | ⟨hf, rfl⟩
    · exact .inl ⟨_, rfl⟩
    · exact .inr ⟨hf, .inr (.inr (.inr (.inr ⟨_, rfl⟩)))⟩
  | cfgTrig _ =>
    rcases configure_next_of h with h | ⟨hf, hi, rfl⟩
    · exact .inl h
    · exact .inr ⟨hf, .inl ⟨hi, _, _, _, _, _, _, _, rfl⟩⟩
  | cfgEcho _ =>
    rcases configure_next_of h with h | ⟨hf, hi, rfl⟩
    · exact .inl h
    · exact .inr ⟨hf, .inl ⟨hi, _, _, _, _, _, _, _, rfl⟩⟩
  | cfgAux1 _ =>
    rcases configure_next_of h with h | ⟨hf, hi, rfl⟩
    · exact .inl h
    · exact .inr ⟨hf, .inl ⟨hi, _, _, _, _, _, _, _, rfl⟩⟩
  | cfgAux2 _ =>
    rcases configure_next_of h with h | ⟨hf, hi, rfl⟩
    · exact .inl h
    · exact .inr ⟨hf, .inl ⟨hi, _, _, _, _, _, _, _, rfl⟩⟩
  | cfgRange _ =>
    rcases configure_next_of h with h | ⟨hf, hi, rfl⟩
    · exact .inl h
    · exact .inr ⟨hf, .inl ⟨hi, _, _, _, _, _, _, _, rfl⟩⟩
  | cfgInterval _ =>
    rcases configure_next_of h with h | ⟨hf, hi, rfl⟩
    · exact .inl h
    · exact .inr ⟨hf, .inl ⟨hi, _, _, _, _, _, _, _, rfl⟩⟩
  | cfgCallback _ =>
    rcases configure_next_of h with h | ⟨hf, hi, rfl⟩
    · exact .inl h
    · exact .inr ⟨hf, .inl ⟨hi, _, _, _, _, _, _, _, rfl⟩⟩

/-! ### The notification and the peripheral's writes -/

/-- Everything a notification can do. -/
theorem bufNeeded_cases (s : State) :
    s.faulted = true ∧ bufNeeded s = s
      ∨ s.faulted = false ∧ ¬ (s.bufreq.toNat + 1 = s.config.bufsForComplete ∧ s.periph = .running)
        ∧ bufNeeded s = { s with bufreq := saturatingIncr s.bufreq }
      ∨ s.faulted = false ∧ s.bufreq.toNat + 1 = s.config.bufsForComplete ∧ s.periph = .running
        ∧ bufNeeded s
          = setPeriph .stopped (emit .pStop { s with bufreq := saturatingIncr s.bufreq }) := by
  unfold bufNeeded
  cases s.faulted
  · by_cases h : s.bufreq.toNat + 1 = s.config.bufsForComplete ∧ s.periph = .running
    · exact .inr (.inr ⟨rfl, h.1, h.2, by rw [if_pos h]; rfl⟩)
    · exact .inr (.inl ⟨rfl, h, by rw [if_neg h]; rfl⟩)
  · simp

/-- Everything a write of the peripheral can do. -/
theorem periphWrite_cases (write : Memory → Memory) (s : State) :
    s.periph = .running ∧ periphWrite write s = { s with rx := write s.rx }
      ∨ s.periph ≠ .running ∧ periphWrite write s = s := by
  unfold periphWrite
  by_cases h : s.periph = .running <;> simp [h]

/-- The saturating increment as exact arithmetic. -/
theorem saturatingIncr_toNat (w : Word) :
    (saturatingIncr w).toNat = min (w.toNat + 1) (2 ^ 32 - 1) := by
  unfold saturatingIncr
  split
  · rename_i h; subst h; rfl
  · rename_i h
    have hw := w.isLt
    have : w.toNat ≠ 2 ^ 32 - 1 := fun e => h (BitVec.eq_of_toNat_eq (by simpa using e))
    rw [BitVec.toNat_add]
    simp only [BitVec.toNat_ofNat]
    omega

/-! ### The window and the step -/

/-- Which offset an access reaches. -/
theorem windowOffset_ok {c : Config} {addr width off : Nat}
    (h : windowOffset c addr width = .ok off) :
    c.regBase ≤ addr ∧ addr < c.regBase + 0x40 ∧ width = 4 ∧ addr % 4 = 0 ∧ off % 4 = 0
      ∧ off = addr - c.regBase := by
  unfold windowOffset windowBytes at h
  split at h
  · cases h
  · split at h
    · cases h; omega
    · cases h

/-- An aligned offset of the window is reached. -/
theorem windowOffset_aligned {c : Config} {off : Nat} (hb : c.regBase % 4 = 0) (h4 : off % 4 = 0)
    (h : off < 0x40) : windowOffset c (c.regBase + off) 4 = .ok off := by
  unfold windowOffset windowBytes
  rw [if_neg (by omega), if_pos (by omega)]
  congr 1
  omega

/-- Everything execute can do: a refusal of the word, or the decoded command. -/
theorem execute_next {w : Word} {s t : State} (h : execute w s = .next t) :
    (∃ e, t = reject e s) ∨ ∃ i, decode w = .ok i ∧ exec i s = .next t := by
  unfold execute at h
  cases hd : decode w with
  | ok i => rw [hd] at h; exact .inr ⟨i, rfl, h⟩
  | error e =>
    rw [hd] at h
    rcases command_next h with ⟨-, rfl⟩ | ⟨-, rfl⟩ <;> exact .inl ⟨_, rfl⟩

/-- Everything a stimulus can do. -/
theorem applyStimulus_next {e : Stimulus} {s t : State} (h : applyStimulus e s = .next t) :
    t = s ∨ (∃ v, t = { s with busData := v }) ∨ (∃ w, execute w s = .next t)
      ∨ e = .bufNeeded ∧ t = bufNeeded s ∨ (∃ i v, e = .rxWord i v ∧ t = periphWriteWord i v s)
      ∨ (∃ u v, e = .rxUnit u v ∧ t = periphWriteUnit u v s)
      ∨ (∃ d, t = { s with draws := d })
      ∨ (e = .reset ∨ e = .powerDown) ∧ t = applyReset s := by
  cases e with
  | quiet => cases h; simp
  | hostRead a n =>
    simp only [applyStimulus, hostRead] at h
    cases hw : windowOffset s.config a n <;> rw [hw] at h <;> cases h
    exact .inr (.inl ⟨_, rfl⟩)
  | hostWrite a n v =>
    simp only [applyStimulus, hostWrite] at h
    cases hw : windowOffset s.config a n <;> rw [hw] at h
    · cases h
    · dsimp only at h
      split at h
      · exact .inr (.inr (.inl ⟨v, h⟩))
      · cases h; exact .inl rfl
  | bufNeeded => cases h; simp
  | rxWord i v => cases h; exact .inr (.inr (.inr (.inr (.inl ⟨i, v, rfl, rfl⟩))))
  | rxUnit u v => cases h; exact .inr (.inr (.inr (.inr (.inr (.inl ⟨u, v, rfl, rfl⟩)))))
  | present d => cases h; exact .inr (.inr (.inr (.inr (.inr (.inr (.inl ⟨d, rfl⟩))))))
  | reset => cases h; simp
  | powerDown => cases h; simp

/-- The state a step works on differs from s in the agenda and the counter of free values only. -/
theorem takeStimulus_state (s : State) :
    (takeStimulus s).2
      = { s with agenda := (takeStimulus s).2.agenda, freeIx := (takeStimulus s).2.freeIx } := by
  unfold takeStimulus
  cases s.agenda <;> rfl

/-- A step with a scheduled stimulus takes the oldest. -/
theorem step_scheduled {s : State} {e : Stimulus} {rest : List Stimulus}
    (hw : s.config.wf = true) (h : s.agenda = e :: rest) :
    step s = applyStimulus e { s with agenda := rest } := by
  simp [step, hw, environmentStep, takeStimulus, h]

/-- Everything a step can do: the parameters are legal, and the stimulus taken is applied to a state
that differs from s in the agenda and the counter only. -/
theorem step_next {s t : State} (h : step s = .next t) :
    s.config.wf = true ∧ ∃ ag ix,
      (takeStimulus s).2 = { s with agenda := ag, freeIx := ix }
        ∧ applyStimulus (takeStimulus s).1 { s with agenda := ag, freeIx := ix } = .next t := by
  unfold step at h
  split at h
  · rename_i hw
    refine ⟨hw, _, _, takeStimulus_state s, ?_⟩
    rw [← takeStimulus_state s]
    exact h
  · cases h

/-! ### Runs -/

/-- A run's first step. -/
theorem run_succ_of_next (M : Host.Core) {k : Nat} {s s' : M.State} (h : M.step s = .next s') :
    M.run (k + 1) s = M.run k s' := by
  have e : M.run (k + 1) s = (match M.step s with
      | .next s' => M.run k s'
      | .fault r => .fault r
      | .refused r => .refused r) := rfl
  rw [e, h]

/-- A run's first step, for the PWS. -/
theorem core_run_succ {k : Nat} {s s' : State} (h : step s = .next s') :
    Sys2Proof.core.run (k + 1) s = Sys2Proof.core.run k s' :=
  run_succ_of_next Sys2Proof.core h

/-- What every step keeps, every run keeps. -/
theorem run_keeps (M : Host.Core) (P : M.State → Prop)
    (kept : ∀ s t, P s → M.step s = .next t → P t) (k : Nat) :
    ∀ a b, P a → M.run k a = .next b → P b := by
  induction k with
  | zero => intro a b ha hab; cases hab; exact ha
  | succ k ih =>
    intro a b ha hab
    have e : M.run (k + 1) a = (match M.step a with
        | .next s' => M.run k s'
        | .fault r => .fault r
        | .refused r => .refused r) := rfl
    rw [e] at hab
    cases hs : M.step a with
    | next a' => rw [hs] at hab; exact ih a' b (kept a a' ha hs) hab
    | fault r => rw [hs] at hab; cases hab
    | refused r => rw [hs] at hab; cases hab

/-- An invariant of every boot state that every step keeps holds of every reachable state. -/
theorem reachable_of_kept (P : State → Prop)
    (boot : ∀ c schedule, c.wf = true → P (State.boot c schedule))
    (kept : ∀ s t, P s → step s = .next t → P t) {s : State} (h : s.Reachable) : P s := by
  obtain ⟨c, schedule, k, hc, hr⟩ := h
  exact run_keeps Sys2Proof.core P kept k _ _ (boot c schedule hc) hr

end Sys2Proof.Machine
end

