-- ==== Sys2Proof/Tests/Slice0.lean ====
section
/-!
SUPPORT. Small tests: ill-formed terms the checks refuse; words written out from 30_encoding.md; single
steps whose results 95_test_vectors.md states (V<n>, S<n>: its rows); and, for each obligation with
hypotheses, a state and operands that meet them.
-/

namespace Sys2Proof.Tests

open Sys2Proof Sys2Proof.Machine

/-! ### Small states -/

/-- Whether a step answers a next state with a property. -/
def gives (r : StepResult) (p : State → Bool) : Bool :=
  match r with
  | .next t => p t
  | _ => false

/-- Pins 5, 6, 7, 8 (section 2.2 of the vectors). -/
def pinned (s : State) : State := { s with pinTrig := 5#8, pinEcho := 6#8, pinAux1 := 7#8, pinAux2 := 8#8 }

/-- A set-up PWS with n-word buffers. -/
def ready (n : Word) : State := { pinned State.reset with alloc := true, numSamples := n }

/-- TRIGGERING, with the draws of the next ADVANCE. -/
def triggering (n : Word) (now : Word) (initOk startOk : Bool) : State :=
  { ready n with state := .triggering, draws := ⟨now, initOk, startOk⟩ }

/-- SAMPLING a short range: 152 words, the shortest buffer of the source's parameters. -/
def sampling (start count now : Word) : State :=
  { ready 152#32 with
    state := .sampling, periph := .running, startMs := start, bufreq := count,
    draws := ⟨now, false, false⟩ }

/-- The trace of SETUP on pins 5, 6, 7, 8. -/
def setupTrace : List Action :=
  [.gpioMode 5#8 .output, .gpioWrite 5#8 false, .gpioMode 6#8 .input, .gpioMode 7#8 .output,
    .gpioMode 8#8 .output]

/-- The P_INIT of pins 5, 6, 7, 8 with the PCFG of R262. -/
def initTrace : Action := .pInit ⟨16, 2, true, 1⟩ 5#8 6#8 7#8 8#8

/-- A scheduled stimulus. -/
def withNext (s : State) (e : Stimulus) : State := { s with agenda := [e] }

/-! ### Well-formed terms -/

theorem test_wf_missing_operand : (AsmLine.mk .CFG_TRIG none).wf = false := by decide
theorem test_wf_superfluous_operand : (AsmLine.mk .SETUP (some 0)).wf = false := by decide
theorem test_wf_pin_too_wide : (AsmLine.mk .CFG_TRIG (some 256)).wf = false := by decide
theorem test_wf_pin_widest : (AsmLine.mk .CFG_TRIG (some 255)).wf = true := by decide
theorem test_wf_range_too_wide : (AsmLine.mk .CFG_RANGE (some 16777216)).wf = false := by decide
theorem test_wf_bit_too_wide : (AsmLine.mk .CFG_CALLBACK (some 2)).wf = false := by decide
theorem test_wf_word_too_wide : (AsmLine.mk .POPCNT16 (some 65536)).wf = false := by decide
theorem test_wf_memory_unsorted : (Memory.mk [(3, 1#8), (2, 1#8)] .zero).wf = false := by decide
theorem test_wf_memory_lists_default : (Memory.mk [(3, 0#8)] .zero).wf = false := by decide

/-- R8, one broken constraint each; the last is log 3's. -/
theorem test_wf_config_refused :
    [{ Config.source with leadingOverheadSamples := 150 },
      { Config.source with wordsPerRangeUnit := 6 }, { Config.source with numPins := 0 },
      { Config.source with numPins := 256 }, { Config.source with bufCapacityWords := 148 },
      { Config.source with soundHalfSpeed := 65536 }, { Config.source with bufsForComplete := 0 },
      { Config.source with samplingTimeoutMs := 2147483648 }, { Config.source with regBase := 2 },
      { Config.source with soundHalfSpeed := 0, bufCapacityWords := 268435456 }].all
        (fun c => !c.wf) = true := by decide

theorem test_wf_config_source : Config.source.wf = true := by decide

/-! ### Words written out from R90 to R92 -/

theorem test_decode_cfg_trig :
    decode 0b00000001_0000000000000000_00000101#32 = .ok (.cfgTrig 5#8) := by decide
theorem test_decode_cfg_range :
    decode 0b00000101_000000000000011111010000#32 = .ok (.cfgRange 2000#24) := by decide
theorem test_decode_cfg_callback :
    decode 0b00000111_00000000000000000000000_1#32 = .ok (.cfgCallback true) := by decide
theorem test_decode_setup :
    decode 0b00010000_000000000000000000000000#32 = .ok .setup := by decide
theorem test_decode_advance :
    decode 0b00010010_000000000000000000000000#32 = .ok .advance := by decide
theorem test_decode_get_result :
    decode 0b00010011_000000000000000000000000#32 = .ok .getResult := by decide
theorem test_decode_popcnt16 :
    decode 0b00100000_00000000_1010101010101010#32 = .ok (.popcnt16 0xAAAA#16) := by decide
/-- V11, V44, V67, V84, V108, V109: words that are no command. -/
theorem test_decode_illegal :
    [0x07000002#32, 0x11000001#32, 0x12000001#32, 0x13000010#32, 0xFF000000#32,
      0x10000001#32].all (fun w => match decode w with | .ok _ => false | .error _ => true)
      = true := by decide
theorem test_decode_table_word : decodeTableWord 32 0x050003E8 = some (.cfgRange 1000#24) := by
  decide

/-! ### Configuration -/

/-- V1. -/
theorem test_cfg_trig : gives (execute 0x01000005#32 State.reset) (fun t =>
    respWord t == 0x00000001#32 && pinsWord t == 0xFFFFFF05#32) = true := by decide
/-- V2. -/
theorem test_cfg_echo : gives (execute 0x02000006#32 { State.reset with pinTrig := 5#8 }) (fun t =>
    respWord t == 0x00000001#32 && pinsWord t == 0xFFFF0605#32) = true := by decide
/-- V5. -/
theorem test_cfg_trig_unset : gives (execute 0x010000FF#32 (pinned State.reset)) (fun t =>
    pinsWord t == 0x080706FF#32) = true := by decide
/-- V7. -/
theorem test_cfg_range : gives (execute 0x05FFFFFF#32 State.reset) (fun t =>
    respWord t == 0x00000001#32 && readReg .CFG_RANGE_MM t == 0x00FFFFFF#32) = true := by decide
/-- V9. -/
theorem test_cfg_interval : gives (execute 0x060003E8#32 State.reset) (fun t =>
    readReg .CFG_INTERVAL_MS t == 0x000003E8#32) = true := by decide
/-- V10. -/
theorem test_cfg_callback : gives (execute 0x07000001#32 State.reset) (fun t =>
    readReg .CFG_FLAGS t == 0x00000001#32) = true := by decide
/-- V12. -/
theorem test_cfg_range_busy : gives (execute 0x050003E8#32 (sampling 0#32 0#32 0#32)) (fun t =>
    respWord t == 0x00000200#32 && readReg .CFG_RANGE_MM t == 2000#32) = true := by decide

/-! ### SETUP and SAMPLE_ONCE -/

/-- V20, S5. -/
theorem test_setup : gives (execute 0x10000000#32 (pinned State.reset)) (fun t =>
    respWord t == 0x00000001#32 && t.numSamples == 0x218#32 && statusWord t == 0x00000004#32
      && t.out == setupTrace) = true := by decide
/-- V32: another length faults, and emits nothing. -/
theorem test_setup_resize : gives (execute 0x10000000#32 { ready 536#32 with rangeMm := 1999#24 })
    (fun t => respWord t == 0x00000500#32 && statusWord t == 0x00000104#32
      && t.numSamples == 536#32 && t.out == []) = true := by decide
/-- V28 to V31: lengths around a range unit. -/
theorem test_buffer_lengths :
    [0, 20, 21, 1999, 1010, 2010].map (numSamplesFor Config.source)
      = [152, 152, 156, 532, 344, 536] := by decide
/-- V43: no ALLOC check. -/
theorem test_sample_once : gives (execute 0x11000000#32 State.reset) (fun t =>
    respWord t == 0x00000001#32 && statusWord t == 0x00000001#32) = true := by decide
/-- V42. -/
theorem test_sample_once_busy : gives (execute 0x11000000#32 (sampling 0#32 0#32 0#32)) (fun t =>
    respWord t == 0x00000200#32 && statusWord t == 0x00000026#32) = true := by decide

/-! ### ADVANCE -/

/-- V53: the interval elapses across the clock's wrap. -/
theorem test_advance_idle_wrap : gives (execute 0x12000000#32
    { ready 536#32 with
      intervalMs := 32#24, startMs := 0xFFFFFFF0#32, draws := ⟨0x10#32, false, false⟩ })
    (fun t => respWord t == 0x00010001#32 && t.out == []) = true := by decide
/-- V58. -/
theorem test_advance_starts : gives (execute 0x12000000#32 (triggering 536#32 5000#32 true true))
    (fun t => respWord t == 0x00020001#32 && statusWord t == 0x00000026#32
      && t.startMs == 0x1388#32 && t.out == [initTrace, .pStart 268#32]
      && t.tx.readSample 0 == 0xFFFF#16 && t.tx.readSample 1 == 0#16
      && t.rx.readSample 535 == 0#16) = true := by decide

/-! ### Compute, results, monitor -/

/-- S1 to S4, V75, V76. -/
theorem test_popcount :
    [0x0000#16, 0xFFFF#16, 0x0001#16, 0xAAAA#16, 0x8000#16, 0x7FFF#16].map popcount16
      = [0, 16, 1, 8, 1, 15] := by decide
/-- S2. -/
theorem test_popcnt16 : gives (execute 0x2000FFFF#32 State.reset) (fun t =>
    respWord t == 0x00100001#32) = true := by decide
/-- V72 and V74's sums in a buffer of 12 words. -/
theorem test_echo_sum : echoSum { ready 12#32 with
    rx := (Memory.zeroed.writeSample 10 0x8001#16).writeSample 0 0xAAAA#16 } = 10 := by decide
/-- V80, S12. -/
theorem test_get_result : gives (execute 0x13000000#32 State.reset) (fun t =>
    respWord t == 0x00010001#32 && resultWord t == 0x000000F1#32) = true := by decide
/-- S6: 170000 µm is 0.17 m. -/
theorem test_distance_meters : metersOfUm 170000#32 = 17 / 100 := by norm_num [metersOfUm]

/-- V91. -/
theorem test_notification_stops :
    (bufNeeded (sampling 0#32 1#32 0#32)).out == [.pStop]
      && (bufNeeded (sampling 0#32 1#32 0#32)).bufreq == 2#32
      && statusWord (bufNeeded (sampling 0#32 1#32 0#32)) == 0x36#32 := by decide
/-- V94. -/
theorem test_notification_saturates :
    (bufNeeded { State.reset with bufreq := 0xFFFFFFFF#32 }).bufreq = 0xFFFFFFFF#32 := by decide

/-! ### Host access and reset -/

/-- V102. -/
theorem test_host_read : gives (step (withNext State.reset (.hostRead 0x40000028 4))) (fun t =>
    t.busData == 0x000007D0#32) = true := by decide
/-- V104. -/
theorem test_host_write_ignored :
    gives (step (withNext State.reset (.hostWrite 0x40000004 4 0x12345678#32))) (fun t =>
      respWord t == 0#32) = true := by decide
/-- V106: a 16-bit read. -/
theorem test_host_read_narrow :
    (match step (withNext State.reset (.hostRead 0x40000004 2)) with
      | .fault .busError => true
      | _ => false) = true := by decide
/-- V111. -/
theorem test_reset_when_faulted :
    gives (step (withNext { ready 536#32 with fResize := true } .reset)) (fun t =>
      statusWord t == 0#32 && pinsWord t == 0xFFFFFFFF#32) = true := by decide
/-- A word placed for the next step runs as the first command after reset. -/
theorem test_with_fetch_word : gives (step (State.reset.withFetchWord 32 0x2000AAAA)) (fun t =>
    respWord t == 0x00080001#32) = true := by decide
/-- S11. -/
theorem test_trigger_pulse : triggerPulseUs Config.source = 16 := by decide
/-- R288: at the source's parameters 1875 words take the whole timeout. -/
theorem test_fits_timeout :
    fitsTimeout Config.source 1874 = true ∧ fitsTimeout Config.source 1875 = false := by decide
/-- R197 and V71: the largest distance at the default range. -/
theorem test_largest_distance : largestDistanceUm (ready 536#32) = 1457920 := by decide

/-! ### Hypotheses that are met: one theorem an obligation with hypotheses -/

/-- A step that answers the state it is said to. -/
def quietStep (s : State) : State := withNext s .quiet

/-- The state a fault bit freezes. -/
def frozen : State := { ready 536#32 with fResize := true }

theorem witness_EncodeOfDecodeIsTheWord :
    decode 0x20FFFF#32 = .error (.unknownOpc 0#8) ∧ decode 0x2000FFFF#32 = .ok (.popcnt16 0xFFFF#16) := by
  decide

theorem witness_DecoderFollowsOpcodeMap :
    decode 0x05FFFFFF#32 = .ok (.cfgRange 0xFFFFFF#24)
      ∧ ⟨.CFG_RANGE, 0x05000000#32, 0xFF000000#32⟩ ∈ opcodeRows
      ∧ 0x05FFFFFF#32 &&& 0xFF000000#32 = 0x05000000#32 := by decide

theorem witness_AssemblyNeverTruncates :
    (AsmLine.mk .POPCNT16 (some 65535)).wf = true
      ∧ (AsmLine.mk .POPCNT16 (some 65536)).wf = false := by decide

theorem witness_StepRunsTheDecodedCommand :
    State.reset.config.wf = true ∧ decode 0x12000000#32 = .ok .advance
      ∧ (withNext State.reset (.hostWrite State.reset.config.regBase 4 0x12000000#32)).agenda
        = .hostWrite State.reset.config.regBase 4 0x12000000#32 :: [] := by decide

theorem witness_ExecuteChecksFaultThenLegality :
    frozen.faulted = true ∧ State.reset.faulted = false ∧ matchesNoRow 0x07000002#32
      ∧ ⟨.CFG_CALLBACK, 0x07000000#32, 0xFFFFFFFE#32⟩ ∈ opcodeRows
      ∧ 0x07000001#32 &&& 0xFFFFFFFE#32 = 0x07000000#32 := by decide

theorem witness_IllegalWordOnlyAnswers :
    (∀ r ∈ opcodeRows, (0x14FFFFFF#32 : Word).extractLsb' 24 8 ≠ r.pattern.extractLsb' 24 8)
      ∧ ⟨.CFG_TRIG, 0x01000000#32, 0xFFFFFF00#32⟩ ∈ opcodeRows
      ∧ (0x01000100#32 : Word).extractLsb' 24 8 = (0x01000000#32 : Word).extractLsb' 24 8
      ∧ 0x01000100#32 &&& 0xFFFFFF00#32 &&& 0x00FFFFFF#32 ≠ 0#32
      ∧ matchesNoRow 0x01000100#32 ∧ State.reset.faulted = false := by decide

theorem witness_EveryCommandAnswers :
    gives (execute 0x13000000#32 State.reset) (fun t => t.resp.ok) = true
      ∧ gives (execute 0x10000000#32 State.reset) (fun t => !t.resp.ok) = true := by decide

theorem witness_FaultedMachineOnlyAnswers :
    frozen.faulted = true ∧ frozen.config.wf = true ∧ 0x3C % 4 = 0 ∧ 0x3C < 0x40 := by decide

theorem witness_PinCommandsWriteTheirField :
    State.reset.faulted = false ∧ State.reset.state = .idle := by decide

theorem witness_ValueCommandsWriteTheirField :
    (ready 536#32).faulted = false ∧ (ready 536#32).state = .idle := by decide

theorem witness_IdleOnlyCommandsAnswerBusy :
    (sampling 0#32 0#32 0#32).faulted = false ∧ (sampling 0#32 0#32 0#32).state ≠ .idle
      ∧ Instr.sampleOnce ∈ [Instr.cfgTrig 0#8, .cfgEcho 0#8, .cfgAux1 0#8, .cfgAux2 0#8,
        .cfgRange 0#24, .cfgInterval 0#24, .cfgCallback true, .sampleOnce] := by decide

theorem witness_ConfigurationFixedDuringACycle :
    step (quietStep (sampling 0#32 0#32 0#32)) = .next (sampling 0#32 0#32 0#32)
      ∧ (sampling 0#32 0#32 0#32).state ≠ .idle
      ∧ ¬ takesReset (quietStep (sampling 0#32 0#32 0#32)) := by
  exact ⟨rfl, by decide, by decide⟩

theorem witness_PinsOkMeansValidAndDistinct :
    Config.source.wf = true ∧ pinsOk Config.source 28#8 29#8 30#8 31#8 = true
      ∧ pinsOk Config.source 28#8 29#8 30#8 32#8 = false := by decide

theorem witness_BufferLengthFormula : Config.source.wf = true := by decide

theorem witness_SetupFailuresInOrder :
    (State.reset.faulted = false ∧ setupPinsOk State.reset = false)
      ∧ ((sampling 0#32 0#32 0#32).faulted = false ∧ setupPinsOk (sampling 0#32 0#32 0#32) = true
        ∧ (sampling 0#32 0#32 0#32).state ≠ .idle)
      ∧ ((ready 532#32).faulted = false ∧ setupPinsOk (ready 532#32) = true
        ∧ (ready 532#32).state = .idle ∧ (ready 532#32).alloc = true
        ∧ setupLength (ready 532#32) ≠ (ready 532#32).numSamples.toNat)
      ∧ ∀ s, s = pinned (State.resetWith { Config.source with bufCapacityWords := 535 }) →
        s.faulted = false ∧ setupPinsOk s = true ∧ s.state = .idle ∧ s.alloc = false
          ∧ s.config.bufCapacityWords < setupLength s := by
  refine ⟨by decide, by decide, by decide, ?_⟩
  rintro s rfl
  decide

theorem witness_SetupAllocatesAndConfigures :
    ∀ s, s = pinned (State.resetWith { Config.source with bufCapacityWords := 536 }) →
      s.faulted = false ∧ setupPinsOk s = true ∧ s.state = .idle ∧ s.alloc = false
        ∧ setupLength s ≤ s.config.bufCapacityWords := by
  rintro s rfl
  decide

theorem witness_SetupAgainKeepsTheBuffers :
    (ready 536#32).faulted = false ∧ setupPinsOk (ready 536#32) = true
      ∧ (ready 536#32).state = .idle ∧ (ready 536#32).alloc = true
      ∧ setupLength (ready 536#32) = (ready 536#32).numSamples.toNat := by decide

theorem witness_SetupNeverTouchesTheCycle :
    frozen.faulted = true
      ∧ ((sampling 0#32 0#32 0#32).faulted = false ∧ (sampling 0#32 0#32 0#32).state ≠ .idle
        ∧ setupPinsOk (sampling 0#32 0#32 0#32) = true)
      ∧ (State.reset.faulted = false ∧ setupPinsOk State.reset = false) := by decide

theorem witness_SampleOnceStartsTriggering :
    State.reset.faulted = false ∧ State.reset.state = .idle := by decide

/-- V51 and V52: interval 100, START_MS = 1000, NOW_MS = 1100 and 1099. -/
theorem witness_AdvanceInIdle :
    ∀ s, s = { ready 536#32 with
        intervalMs := 100#24, startMs := 1000#32, draws := ⟨1100#32, false, false⟩ } →
      s.faulted = false ∧ s.state = .idle ∧ s.intervalMs ≠ 0#24
        ∧ s.intervalMs.toNat ≤ msSinceStart s.draws.nowMs s
        ∧ msSinceStart 1099#32 s < s.intervalMs.toNat ∧ State.reset.intervalMs = 0#24 := by
  rintro s rfl
  decide

theorem witness_AdvanceWithoutBuffersFaults :
    ∀ s, s = { State.reset with state := .triggering } →
      s.faulted = false ∧ s.state = .triggering ∧ s.alloc = false := by
  rintro s rfl
  decide

theorem witness_TriggeringInitFailure :
    (triggering 536#32 7#32 false true).faulted = false
      ∧ (triggering 536#32 7#32 false true).state = .triggering
      ∧ (triggering 536#32 7#32 false true).alloc = true
      ∧ (triggering 536#32 7#32 false true).draws.initOk = false := by decide

theorem witness_TriggeringStartFailure :
    (triggering 536#32 200#32 true false).faulted = false
      ∧ (triggering 536#32 200#32 true false).state = .triggering
      ∧ (triggering 536#32 200#32 true false).alloc = true
      ∧ (triggering 536#32 200#32 true false).draws.initOk = true
      ∧ (triggering 536#32 200#32 true false).draws.startOk = false := by decide

theorem witness_TriggeringStartsTheCycle :
    (triggering 536#32 200#32 true true).faulted = false
      ∧ (triggering 536#32 200#32 true true).state = .triggering
      ∧ (triggering 536#32 200#32 true true).alloc = true
      ∧ (triggering 536#32 200#32 true true).draws.initOk = true
      ∧ (triggering 536#32 200#32 true true).draws.startOk = true := by decide

/-- V59: elapsed 29, one notification. -/
theorem witness_SamplingWaits :
    ∀ s, s = sampling 5000#32 1#32 5029#32 →
      s.faulted = false ∧ s.state = .sampling ∧ s.bufreq.toNat < s.config.bufsForComplete
        ∧ msSinceStart s.draws.nowMs s < s.config.samplingTimeoutMs := by
  rintro s rfl
  decide

/-- V60: elapsed 30, and one notification at most. -/
theorem witness_SamplingTimesOut :
    ∀ s, s = sampling 5000#32 1#32 5030#32 →
      s.faulted = false ∧ s.state = .sampling ∧ s.bufreq.toNat < s.config.bufsForComplete
        ∧ s.config.samplingTimeoutMs ≤ msSinceStart s.draws.nowMs s := by
  rintro s rfl
  decide

/-- V61: two notifications, PERIPH = STOPPED. -/
theorem witness_SamplingSucceeds :
    ∀ s, s = { sampling 5000#32 2#32 5001#32 with periph := .stopped } →
      s.Inv ∧ s.faulted = false ∧ s.state = .sampling
        ∧ s.config.bufsForComplete ≤ s.bufreq.toNat := by
  rintro s rfl
  decide

theorem witness_AdvanceAnswersTheNewState :
    (triggering 536#32 0#32 true true).faulted = false
      ∧ ((triggering 536#32 0#32 true true).state = .triggering →
        (triggering 536#32 0#32 true true).alloc = true) := by decide

theorem witness_StateChangesFollowTheTable :
    ∃ t, exec .sampleOnce State.reset = .next t ∧ t.state ≠ State.reset.state :=
  ⟨_, rfl, by decide⟩

theorem witness_OneResultPerCycle :
    (∃ t, step (withNext (triggering 536#32 0#32 false false)
          (.hostWrite Config.source.regBase 4 0x12000000#32)) = .next t
        ∧ ¬ takesReset (withNext (triggering 536#32 0#32 false false)
          (.hostWrite Config.source.regBase 4 0x12000000#32))
        ∧ (triggering 536#32 0#32 false false).state ≠ .idle ∧ t.state = .idle)
      ∧ step (quietStep State.reset) = .next State.reset
      ∧ ¬ takesReset (quietStep State.reset) ∧ State.reset.state = .idle :=
  ⟨⟨_, rfl, by decide, by decide, by decide⟩, rfl, by decide, by decide⟩

theorem witness_GetResultAnswersTheStatus : State.reset.faulted = false := by decide

theorem witness_LastResultIsStatusAndExactMetres :
    ∀ s, s = { sampling 0#32 1#32 0#32 with agenda := lastResultAccesses Config.source ++ [Stimulus.quiet] } →
      s.config.wf = true ∧ s.faulted = false
        ∧ s.agenda = lastResultAccesses s.config ++ [Stimulus.quiet]
        ∧ step (quietStep State.reset) = .next State.reset ∧ ¬ takesReset (quietStep State.reset)
        ∧ ∀ a n w, (takeStimulus (quietStep State.reset)).1 = .hostWrite a n w →
          decode w ≠ .ok .advance := by
  rintro s rfl
  exact ⟨by decide, by decide, rfl, rfl, by decide, fun a n w h => by cases h⟩

theorem witness_Popcnt16AnswersTheBitCount : (sampling 0#32 0#32 0#32).faulted = false := by decide

/-- V79: the words in the other order. -/
theorem witness_EchoSumIgnoresWordOrder :
    ∀ s s', s = { ready 4#32 with rx := Memory.zeroed.writeSample 0 0x8001#16 } →
      s' = { ready 4#32 with rx := Memory.zeroed.writeSample 3 0x8001#16 } →
      ((List.range s.numSamples.toNat).map s.rx.readSample).Perm
        ((List.range s'.numSamples.toNat).map s'.rx.readSample) := by
  rintro s s' rfl rfl
  decide

theorem witness_NotificationCountsAndStops :
    (withNext (sampling 0#32 1#32 0#32) .bufNeeded).config.wf = true
      ∧ (withNext (sampling 0#32 1#32 0#32) .bufNeeded).agenda = .bufNeeded :: []
      ∧ frozen.faulted = true ∧ (sampling 0#32 1#32 0#32).faulted = false
      ∧ (sampling 0#32 1#32 0#32).bufreq.toNat + 1 = Config.source.bufsForComplete
      ∧ (sampling 0#32 1#32 0#32).periph = .running
      ∧ (sampling 0#32 2#32 0#32).bufreq.toNat + 1 ≠ Config.source.bufsForComplete := by decide

/-- V57: the TRIGGERING reset, by the host's write of ADVANCE. -/
theorem witness_BufreqOnlyCounts :
    ∃ t, step (withNext { triggering 536#32 200#32 true false with bufreq := 7#32 }
      (.hostWrite Config.source.regBase 4 0x12000000#32)) = .next t ∧ t.bufreq = 0#32 :=
  ⟨_, rfl, by decide⟩

theorem witness_PeripheralWritesReadBack :
    (sampling 0#32 1#32 0#32).Inv ∧ (sampling 0#32 1#32 0#32).periph = .running
      ∧ 151 < (sampling 0#32 1#32 0#32).numSamples.toNat
      ∧ 2 * 75 + 1 < (sampling 0#32 1#32 0#32).numSamples.toNat
      ∧ (withNext (sampling 0#32 1#32 0#32) (.rxUnit 75 0#32)).agenda = .rxUnit 75 0#32 :: [] := by
  decide

theorem witness_PeripheralWritesBounded :
    (ready 152#32).config.wf = true ∧ (ready 152#32).periph ≠ .running
      ∧ (sampling 0#32 1#32 0#32).numSamples.toNat ≤ 152
      ∧ (withNext (ready 152#32) (.rxWord 0 1#16)).agenda = .rxWord 0 1#16 :: []
      ∧ (sampling 0#32 1#32 0#32).numSamples.toNat ≤ 2 * 76
      ∧ (withNext (sampling 0#32 1#32 0#32) (.rxUnit 76 1#32)).agenda = .rxUnit 76 1#32 :: [] := by
  decide

theorem witness_HostReadHasNoSideEffect :
    ∀ off ∈ [0x00, 0x04, 0x08, 0x0C, 0x10, 0x14, 0x18, 0x1C, 0x20, 0x24, 0x28, 0x2C, 0x30, 0x34, 0x3C],
      State.reset.config.wf = true ∧ off % 4 = 0 ∧ off < 0x40
        ∧ (withNext State.reset (.hostRead (State.reset.config.regBase + off) 4)).agenda
          = .hostRead (State.reset.config.regBase + off) 4 :: [] := by decide

theorem witness_HostWriteOnlyReachesCmd :
    State.reset.config.wf = true ∧ State.reset.faulted = false ∧ State.reset.state = .idle
      ∧ ∀ off ∈ [0x04, 0x3C], off % 4 = 0 ∧ 0 < off ∧ off < 0x40
        ∧ (withNext State.reset (.hostWrite (State.reset.config.regBase + off) 4 0#32)).agenda
          = .hostWrite (State.reset.config.regBase + off) 4 0#32 :: [] := by decide

theorem witness_MalformedAccessStops :
    State.reset.config.wf = true
      ∧ (withNext State.reset (.hostRead 0x4000003E 4)).agenda = .hostRead 0x4000003E 4 :: []
      ∧ State.reset.config.regBase ≤ 0x4000003E ∧ 0x4000003E < State.reset.config.regBase + 0x40
      ∧ 0x4000003E % 4 ≠ 0 ∧ State.reset.config.regBase + 0x40 ≤ 0x40000040
      ∧ 0x3FFFFFFC < State.reset.config.regBase ∧ 0x4000003C % 4 = 0 := by decide

theorem witness_IllegalParametersRefused :
    State.reset.config.wf = true
      ∧ (State.resetWith { Config.source with numPins := 0 }).config.wf = false
      ∧ (takeStimulus (withNext State.reset (.hostRead 0x4000003C 4))).1 = .hostRead 0x4000003C 4
      ∧ inWindow Config.source 0x4000003C 4
      ∧ (takeStimulus (quietStep State.reset)).1 = .quiet := by decide

theorem witness_ResetStepFromAnyState :
    frozen.config.wf = true ∧ (withNext frozen .reset).agenda = .reset :: []
      ∧ (withNext frozen .powerDown).agenda = .powerDown :: [] := by decide

theorem witness_OnlyResetReleasesBuffers :
    (∃ t, step (withNext frozen .reset) = .next t ∧ takesReset (withNext frozen .reset))
      ∧ step (quietStep frozen) = .next frozen ∧ ¬ takesReset (quietStep frozen)
      ∧ frozen.alloc = true :=
  ⟨⟨_, rfl, by decide⟩, rfl, by decide, by decide⟩

theorem witness_InvariantAfterReset : Config.source.wf = true := by decide

theorem witness_StepKeepsTheInvariant :
    (quietStep (sampling 0#32 1#32 0#32)).Inv
      ∧ step (quietStep (sampling 0#32 1#32 0#32)) = .next (sampling 0#32 1#32 0#32) :=
  ⟨by decide, rfl⟩

theorem witness_ReachableStatesKeepR50 :
    ∃ s : State, s.Reachable ∧ s.state ≠ .idle :=
  ⟨_, ⟨Config.source, [.hostWrite Config.source.regBase 4 0x11000000#32], 1, by decide, rfl⟩,
    by decide⟩

theorem witness_FaultFreezesTheMachine :
    (quietStep frozen).Inv ∧ (quietStep frozen).faulted = true
      ∧ step (quietStep frozen) = .next frozen ∧ ¬ takesReset (quietStep frozen) :=
  ⟨by decide, by decide, rfl, by decide⟩

theorem witness_NoPinIsEverDrivenHigh :
    step (quietStep State.reset) = .next State.reset
      ∧ (∀ p, Action.gpioWrite p true ∉ State.reset.out) ∧ PinLevel.high ∉ State.reset.pinLevel :=
  ⟨rfl, by intro p; exact List.not_mem_nil, by decide⟩

/-- Across the 32-bit wrap, and one millisecond and 2^31 ms back. -/
theorem witness_ElapsedTimeAcrossWrap :
    ∀ s, s = { State.reset with startMs := clockAt (2 ^ 32 - 1) } →
      s.startMs = clockAt (2 ^ 32 - 1) ∧ clockAdvances (2 ^ 32 - 1) (2 ^ 33 - 2)
        ∧ s.config.wf = true ∧ 2 ^ 32 - 2 < 2 ^ 32 - 1 ∧ 2 ^ 31 - 1 < 2 ^ 32 - 1
        ∧ 2 ^ 32 - 1 - (2 ^ 31 - 1) ≤ 2 ^ 31 := by
  rintro s rfl
  exact ⟨rfl, by decide, by decide, by decide, by decide, by decide⟩

theorem witness_PseudoInstructionsExpand : 16777 * 1000 + 215 < 2 ^ 24 := by decide

theorem witness_MeasurementCompletes :
    ∀ s, s = { ready 536#32 with
        agenda := [.hostWrite Config.source.regBase 4 0x11000000#32,
          .present { nowMs := 5000#32, initOk := true, startOk := true },
          .hostWrite Config.source.regBase 4 0x12000000#32, .rxWord 535 0xFFFF#16, .bufNeeded,
          .bufNeeded, .hostWrite Config.source.regBase 4 0x12000000#32] } →
      s.Inv ∧ s.faulted = false ∧ s.state = .idle ∧ s.alloc = true
        ∧ s.config.bufsForComplete = 2 ∧ 535 < s.numSamples.toNat := by
  rintro s rfl
  decide

end Sys2Proof.Tests
end

section
/-!
SUPPORT. The family 00_scope.md: the parameters of R7 and the constraints of R8, and what a step may change
of the configuration.
-/

namespace Sys2Proof.Machine

/-! ### The setting: parameters and configuration registers -/

/-- What the host settles before a cycle: the parameters of R7 and the configuration registers of R39 to
R42. -/
@[ext]
structure Setting where
  config     : Config
  pinTrig    : Pin
  pinEcho    : Pin
  pinAux1    : Pin
  pinAux2    : Pin
  rangeMm    : U24
  intervalMs : U24
  cbEn       : Bool

/-- The setting of a state. -/
def State.setting (s : State) : Setting where
  config     := s.config
  pinTrig    := s.pinTrig
  pinEcho    := s.pinEcho
  pinAux1    := s.pinAux1
  pinAux2    := s.pinAux2
  rangeMm    := s.rangeMm
  intervalMs := s.intervalMs
  cbEn       := s.cbEn

/-- Two states have the same setting when they agree on its eight fields. -/
theorem setting_eq_iff {s t : State} :
    t.setting = s.setting ↔
      t.config = s.config ∧ t.pinTrig = s.pinTrig ∧ t.pinEcho = s.pinEcho ∧ t.pinAux1 = s.pinAux1
        ∧ t.pinAux2 = s.pinAux2 ∧ t.rangeMm = s.rangeMm ∧ t.intervalMs = s.intervalMs
        ∧ t.cbEn = s.cbEn := Setting.ext_iff

/-! ### Operations that keep the setting -/

@[simp] theorem reject_setting (err : ErrCode) (s : State) :
    (reject err s).setting = s.setting := rfl
@[simp] theorem succeed_setting (data : BitVec 16) (s : State) :
    (succeed data s).setting = s.setting := rfl
@[simp] theorem answerState_setting (s : State) : (answerState s).setting = s.setting := rfl
@[simp] theorem emit_setting (a : Action) (s : State) : (emit a s).setting = s.setting := rfl
@[simp] theorem setState_setting (st : SeqState) (s : State) :
    (setState st s).setting = s.setting := rfl
@[simp] theorem setPeriph_setting (p : Periph) (s : State) :
    (setPeriph p s).setting = s.setting := rfl
@[simp] theorem redraw_setting (s : State) : (redraw s).setting = s.setting := rfl
@[simp] theorem allocate_setting (n : Nat) (s : State) : (allocate n s).setting = s.setting := rfl
@[simp] theorem prepareCycle_setting (s : State) : (prepareCycle s).setting = s.setting := rfl
@[simp] theorem enterSampling_setting (now : Word) (s : State) :
    (enterSampling now s).setting = s.setting := rfl
@[simp] theorem samplingExit_setting (s : State) : (samplingExit s).setting = s.setting := by
  simp [State.setting]
@[simp] theorem setupDone_setting (s : State) : (setupDone s).setting = s.setting := by
  simp [State.setting, setupDone]
@[simp] theorem startedCycle_setting (s : State) : (startedCycle s).setting = s.setting := by
  simp [State.setting, startedCycle]
@[simp] theorem faultCommand_setting (f : FaultBit) (s : State) :
    (faultCommand f s).setting = s.setting := by simp [State.setting, faultCommand]
@[simp] theorem record_setting (st : ResultStatus) (c : Cause) (n d : Word) (s : State) :
    (record st c n d s).setting = s.setting := by simp [State.setting]
@[simp] theorem recordSuccess_setting (s : State) : (recordSuccess s).setting = s.setting :=
  record_setting ..
@[simp] theorem triggerFailed_setting (c : Cause) (s : State) :
    (triggerFailed c s).setting = s.setting := record_setting ..

@[simp] theorem setupBuffers_setting (n : Nat) (s : State) :
    (setupBuffers n s).setting = s.setting := by
  rcases setupBuffers_cases n s with ⟨-, -, e⟩ | ⟨-, -, e⟩ | ⟨-, -, e⟩ | ⟨-, -, e⟩ <;> simp [e]

@[simp] theorem idleHandler_setting (now : Word) (s : State) :
    (idleHandler now s).setting = s.setting := by
  rcases idleHandler_cases now s with ⟨-, e⟩ | ⟨-, e⟩ <;> simp [e]

@[simp] theorem triggeringHandler_setting (d : Draws) (s : State) :
    (triggeringHandler d s).setting = s.setting := by
  rcases triggeringHandler_cases d s with ⟨-, e⟩ | ⟨-, -, e⟩ | ⟨-, -, e⟩ <;> simp [e]

@[simp] theorem samplingHandler_setting (now : Word) (s : State) :
    (samplingHandler now s).setting = s.setting := by
  rcases samplingHandler_cases now s with ⟨-, e⟩ | ⟨-, -, e⟩ | ⟨-, -, e⟩ <;> simp [e]

theorem execAdvance_setting {s t : State} (h : execAdvance s = .next t) :
    t.setting = s.setting := by
  rcases execAdvance_next h with
    ⟨-, rfl⟩ | ⟨-, ⟨-, rfl⟩ | ⟨-, -, rfl⟩ | ⟨-, -, rfl⟩ | ⟨-, rfl⟩⟩ <;> simp

@[simp] theorem bufNeeded_setting (s : State) : (bufNeeded s).setting = s.setting := by
  rcases bufNeeded_cases s with ⟨-, e⟩ | ⟨-, -, e⟩ | ⟨-, -, -, e⟩ <;> rw [e] <;> rfl

@[simp] theorem periphWrite_setting (write : Memory → Memory) (s : State) :
    (periphWrite write s).setting = s.setting := by
  rcases periphWrite_cases write s with ⟨-, e⟩ | ⟨-, e⟩
  · rw [e]; rfl
  · rw [e]

/-! ### What a command, a stimulus and a step may change of the setting -/

/-- Only a command run in IDLE changes the setting, and it leaves the parameters alone. -/
theorem exec_setting {i : Instr} {s t : State} (h : exec i s = .next t) :
    t.setting = s.setting ∨ s.state = .idle ∧ t.config = s.config := by
  rcases exec_next h with ⟨e, rfl⟩ | ⟨-, ⟨hi, _, _, _, _, _, _, _, rfl⟩ | ⟨-, -, -, rfl⟩ |
    ⟨-, -, rfl⟩ | ⟨-, ha⟩ | ⟨d, rfl⟩⟩
  · exact .inl (reject_setting e s)
  · exact .inr ⟨hi, rfl⟩
  · exact .inl (setupBuffers_setting _ s)
  · exact .inl rfl
  · exact .inl (execAdvance_setting ha)
  · exact .inl (succeed_setting d s)

/-- Likewise for a word written to CMD. -/
theorem execute_setting {w : Word} {s t : State} (h : execute w s = .next t) :
    t.setting = s.setting ∨ s.state = .idle ∧ t.config = s.config := by
  rcases execute_next h with ⟨e, rfl⟩ | ⟨i, -, hi⟩
  · exact .inl (reject_setting e s)
  · exact exec_setting hi

/-- Only a command run in IDLE and a reset change the setting, and both leave the parameters alone. -/
theorem applyStimulus_setting {e : Stimulus} {s t : State} (h : applyStimulus e s = .next t) :
    t.setting = s.setting
      ∨ (s.state = .idle ∨ e = .reset ∨ e = .powerDown) ∧ t.config = s.config := by
  rcases applyStimulus_next h with rfl | ⟨v, rfl⟩ | ⟨w, hw⟩ | ⟨-, rfl⟩ | ⟨i, v, -, rfl⟩ |
    ⟨u, v, -, rfl⟩ | ⟨d, rfl⟩ | ⟨hr, rfl⟩
  · exact .inl rfl
  · exact .inl rfl
  · exact (execute_setting hw).imp_right fun ⟨hi, hc⟩ => ⟨.inl hi, hc⟩
  · exact .inl (bufNeeded_setting s)
  · exact .inl (periphWrite_setting _ s)
  · exact .inl (periphWrite_setting _ s)
  · exact .inl rfl
  · exact .inr ⟨.inr hr, applyReset_config s⟩

/-- A step changes the setting in IDLE or by a reset only, and never the parameters. -/
theorem step_setting {s t : State} (h : step s = .next t) :
    t.setting = s.setting ∨ (s.state = .idle ∨ takesReset s) ∧ t.config = s.config := by
  obtain ⟨-, ag, ix, -, ha⟩ := step_next h
  exact (applyStimulus_setting ha :)

/-- No step, reset included, changes the parameters of R7. -/
theorem step_config {s t : State} (h : step s = .next t) : t.config = s.config := by
  rcases step_setting h with hk | ⟨-, hc⟩
  · exact (setting_eq_iff.mp hk).1
  · exact hc

/-- Settles O14: a step that changes the setting is taken in IDLE or is a reset. -/
theorem configurationFixedDuringACycle : Obligations.ConfigurationFixedDuringACycle := by
  intro s t h
  refine ⟨step_config h, fun hs hr => ?_⟩
  rcases step_setting h with hk | ⟨hi | hreset, -⟩
  · exact (setting_eq_iff.mp hk).2
  · exact absurd hi hs
  · exact absurd hreset hr

/-! ### Legal parameters -/

/-- R8's constraints with the model's two (log 3), as propositions. -/
theorem config_wf_iff (c : Config) :
    c.wf = true ↔
      c.leadingOverheadSamples % 4 = 0 ∧ c.wordsPerRangeUnit % 4 = 0
        ∧ 1 ≤ c.numPins ∧ c.numPins ≤ 255
        ∧ c.leadingOverheadSamples ≤ c.bufCapacityWords
        ∧ 16 * c.bufCapacityWords * c.soundHalfSpeed < 2 ^ 32
        ∧ 1 ≤ c.bufsForComplete ∧ c.samplingTimeoutMs < 2 ^ 31
        ∧ c.regBase % 4 = 0 ∧ 16 * c.bufCapacityWords < 2 ^ 32 := by
  simp only [Config.wf, Bool.and_eq_true, beq_iff_eq, decide_eq_true_eq, and_assoc]

/-- The window of a legal platform starts at an aligned address. -/
theorem regBase_aligned {c : Config} (h : c.wf = true) : c.regBase % 4 = 0 := by
  obtain ⟨-, -, -, -, -, -, -, -, hb, -⟩ := (config_wf_iff c).mp h
  exact hb

/-- Illegal parameters are refused, whatever the stimulus. -/
theorem step_illegal {s : State} (h : s.config.wf = false) :
    step s = .refused .badConfiguration := by simp [step, h]

/-- Legal parameters leave the step to the stimulus taken. -/
theorem step_legal {s : State} (h : s.config.wf = true) :
    step s = applyStimulus (takeStimulus s).1 (takeStimulus s).2 := by
  simp [step, h, environmentStep]

/-! ### Progress -/

/-- Every command answers a next state in every state: each meaning is a `command`. -/
theorem exec_answers (i : Instr) (s : State) : ∃ t, exec i s = .next t := by
  cases i <;> exact ⟨_, rfl⟩

/-- Every word written to CMD answers a next state. -/
theorem execute_answers (w : Word) (s : State) : ∃ t, execute w s = .next t := by
  unfold execute
  cases decode w with
  | ok i => exact exec_answers i s
  | error _ => exact ⟨_, rfl⟩

/-- On a legal platform an access R61 allows reaches its register. -/
theorem windowOffset_inWindow {c : Config} (hc : c.wf = true) {addr width : Nat}
    (h : inWindow c addr width) : windowOffset c addr width = .ok (addr - c.regBase) := by
  obtain ⟨hlo, hhi, rfl, ha⟩ := h
  have hb := regBase_aligned hc
  have e := windowOffset_aligned (off := addr - c.regBase) hb (by omega) (by omega)
  rwa [Nat.add_sub_cancel' hlo] at e

/-- On a legal platform every stimulus answers a next state but a host access R61 does not allow. -/
theorem applyStimulus_answers {e : Stimulus} {s : State} (hc : s.config.wf = true)
    (hr : ∀ a n, e = .hostRead a n → inWindow s.config a n)
    (hw : ∀ a n v, e = .hostWrite a n v → inWindow s.config a n) :
    ∃ t, applyStimulus e s = .next t := by
  cases e with
  | hostRead a n =>
    simp only [applyStimulus, hostRead, windowOffset_inWindow hc (hr a n rfl)]
    exact ⟨_, rfl⟩
  | hostWrite a n v =>
    simp only [applyStimulus, hostWrite, windowOffset_inWindow hc (hw a n v rfl)]
    split
    · exact execute_answers v s
    · exact ⟨_, rfl⟩
  | quiet | bufNeeded | rxWord | rxUnit | present | reset | powerDown => exact ⟨_, rfl⟩

/-- Taking a stimulus leaves the parameters alone. -/
@[simp] theorem takeStimulus_config (s : State) : (takeStimulus s).2.config = s.config := by
  rw [takeStimulus_state]

/-- Settles O45: `Config.wf` is R8's conjunction, and a legal step is its stimulus, which answers. -/
theorem illegalParametersRefused : Obligations.IllegalParametersRefused := by
  refine fun s => ⟨config_wf_iff s.config, step_illegal, fun hc hr hw => ?_⟩
  rw [step_legal hc]
  rw [← takeStimulus_config s] at hc hr hw
  exact applyStimulus_answers hc hr hw

end Sys2Proof.Machine
end

section
/-!
SUPPORT. The family 10_state.md: the register words' layout and reset values, the invariant of every
reachable state (R50), what may change BUFREQ, and the write of a command word to CMD.
-/

namespace Sys2Proof.Machine

/-! ### A write of CMD -/

/-- The oldest scheduled write of CMD is executed (R24, R63). -/
theorem step_cmdWrite {s : State} {w : Word} {rest : List Stimulus} (hc : s.config.wf = true)
    (h : s.agenda = .hostWrite s.config.regBase 4 w :: rest) :
    step s = execute w { s with agenda := rest } := by
  have hoff : windowOffset s.config s.config.regBase 4 = .ok 0 :=
    windowOffset_aligned (off := 0) (regBase_aligned hc) rfl (by decide)
  simp [step_scheduled hc h, applyStimulus, hostWrite, hoff, Reg.offset]

/-- A legal word's execution is its command's rule. -/
theorem execute_decoded {w : Word} {i : Instr} (h : decode w = .ok i) (s : State) :
    execute w s = exec i s := by simp [execute, h]

/-- Settles O6: the scheduled write reaches CMD, and execute runs the command decoded. -/
theorem stepRunsTheDecodedCommand : Obligations.StepRunsTheDecodedCommand := by
  have scheduled : ∀ (s : State) (w : Word) (i : Instr) (rest : List Stimulus),
      s.config.wf = true → decode w = .ok i →
      s.agenda = .hostWrite s.config.regBase 4 w :: rest →
      step s = exec i { s with agenda := rest } := by
    intro s w i rest hc hd ha
    rw [step_cmdWrite hc ha, execute_decoded hd]
  refine ⟨scheduled, fun s w i hc hd => ?_⟩
  refine scheduled (s.withFetchWord 32 w.toNat) w i s.agenda hc hd ?_
  simp [State.withFetchWord, commandWrite, Reg.offset, Nat.mod_eq_of_lt w.isLt]

/-! ### The register words -/

/-- Where the bits of a field lie. -/
theorem getLsbD_fieldAt {n : Nat} (v : BitVec n) (lo k : Nat) :
    (fieldAt v lo).getLsbD k = (decide (k < 32) && decide (lo ≤ k) && v.getLsbD (k - lo)) := by
  by_cases h : lo ≤ k
  · by_cases hk : k < 32
    · simp [fieldAt, h, hk]
    · simp [fieldAt, hk]
  · simp [fieldAt, h, Nat.lt_of_not_le h]

/-- Two neighbouring fields are one field of their bits. -/
theorem fieldAt_append {n m : Nat} (x : BitVec n) (y : BitVec m) (lo : Nat) :
    fieldAt (x ++ y) lo = fieldAt y lo ||| fieldAt x (m + lo) := by
  apply BitVec.eq_of_getLsbD_eq
  intro k hk
  simp only [BitVec.getLsbD_or, getLsbD_fieldAt, BitVec.getLsbD_append, hk]
  by_cases hy : k - lo < m
  · by_cases hx : m + lo ≤ k
    · omega
    · simp [hy, hx]
  · by_cases hl : lo ≤ k
    · have hout : y.getLsbD (k - lo) = false := BitVec.getLsbD_of_ge _ _ (by omega)
      simp [hy, hl, hout, show m + lo ≤ k by omega, Nat.sub_sub, Nat.add_comm]
    · simp [hl, show ¬ m + lo ≤ k by omega]

/-- A reserved field is 0. -/
theorem fieldAt_zero (n lo : Nat) : fieldAt 0#n lo = 0#32 := by simp [fieldAt]

/-- A whole word is its own field. -/
theorem fieldAt_word (w : Word) : fieldAt w 0 = w := by simp [fieldAt]

/-- RESP's layout (R25). -/
theorem respWord_layout (s : State) :
    respWord s = s.resp.data ++ s.resp.err.code ++ 0#7 ++ BitVec.ofBool s.resp.ok := by
  have fields : fieldAt (s.resp.data ++ s.resp.err.code ++ 0#7 ++ BitVec.ofBool s.resp.ok) 0
      = respWord s := by
    simp only [fieldAt_append]
    simp only [fieldAt_zero, respWord, Nat.reduceAdd, BitVec.zero_or, BitVec.or_assoc]
    rw [BitVec.or_comm, BitVec.or_comm (fieldAt s.resp.err.code 8), BitVec.or_assoc]
  exact fields.symm.trans (fieldAt_word _)

/-- STATUS's layout (R26). -/
theorem statusWord_layout (s : State) :
    statusWord s = 0#22 ++ BitVec.ofBool s.fNobuf ++ BitVec.ofBool s.fResize ++ 0#2
      ++ s.periph.code ++ 0#1 ++ BitVec.ofBool s.alloc ++ s.state.code := by
  have fields : fieldAt (0#22 ++ BitVec.ofBool s.fNobuf ++ BitVec.ofBool s.fResize ++ 0#2
      ++ s.periph.code ++ 0#1 ++ BitVec.ofBool s.alloc ++ s.state.code) 0 = statusWord s := by
    simp only [fieldAt_append]
    simp only [fieldAt_zero, statusWord, Nat.reduceAdd, BitVec.zero_or, BitVec.or_zero,
      BitVec.or_assoc]
  exact fields.symm.trans (fieldAt_word _)

/-- RESULT's layout (R34). -/
theorem resultWord_layout (s : State) :
    resultWord s = s.resultSeq ++ 0#8 ++ s.resultCause.code ++ 0#2 ++ s.resultStatus.code := by
  have fields : fieldAt (s.resultSeq ++ 0#8 ++ s.resultCause.code ++ 0#2 ++ s.resultStatus.code) 0
      = resultWord s := by
    simp only [fieldAt_append]
    simp only [fieldAt_zero, resultWord, Nat.reduceAdd, BitVec.zero_or, BitVec.or_assoc]
  exact fields.symm.trans (fieldAt_word _)

/-- CFG_PINS's layout (R39). -/
theorem pinsWord_layout (s : State) :
    pinsWord s = s.pinAux2 ++ s.pinAux1 ++ s.pinEcho ++ s.pinTrig := by
  have fields : fieldAt (s.pinAux2 ++ s.pinAux1 ++ s.pinEcho ++ s.pinTrig) 0 = pinsWord s := by
    simp only [fieldAt_append]
    simp only [pinsWord, Nat.reduceAdd, BitVec.or_assoc]
  exact fields.symm.trans (fieldAt_word _)

/-- STATE never reads 3 (U1). -/
theorem stateCode_ne_three (st : SeqState) : st.code ≠ 3#2 := by cases st <;> decide

/-- Settles O42: the three layouts, and the code tables row by row. -/
theorem registerFieldsAtTheirBits : Obligations.RegisterFieldsAtTheirBits := fun s =>
  ⟨respWord_layout s, statusWord_layout s, resultWord_layout s, stateCode_ne_three s.state,
    rfl, rfl, rfl, rfl, rfl⟩

/-! ### The values after reset -/

/-- Every pin of the port is unknown after reset (R45, R51). -/
theorem resetWith_pin_unknown (c : Config) {p : Nat} (h : p < c.numPins) :
    (State.resetWith c).pinMode[p]? = some .unknown
      ∧ (State.resetWith c).pinLevel[p]? = some .unknown := by
  simp [State.resetWith, h]

/-- Settles O46: every register reads its row of R51. -/
theorem resetValues : Obligations.ResetValues := by
  refine ⟨?_, by decide⟩
  rintro c s rfl
  have hresp : respWord (State.resetWith c) = 0#32 := by
    simp [respWord_layout, State.resetWith, ErrCode.code]
  have hstatus : statusWord (State.resetWith c) = 0#32 := by
    simp [statusWord_layout, State.resetWith, SeqState.code, Periph.code]
  have hresult : resultWord (State.resetWith c) = 0x000000F1#32 := by
    simp [resultWord_layout, State.resetWith, ResultStatus.code, Cause.code]
  have hpins : pinsWord (State.resetWith c) = 0xFFFFFFFF#32 := by
    rw [pinsWord_layout]
    simp only [State.resetWith]
    rfl
  have hflags : fieldAt (BitVec.ofBool (State.resetWith c).cbEn) 0 = 0#32 := by
    simp [State.resetWith, fieldAt]
  exact ⟨hresp, hstatus, rfl, rfl, rfl, hresult, rfl, rfl, hpins, rfl, rfl, hflags, rfl, rfl, rfl,
    fun p hp => resetWith_pin_unknown c hp⟩

/-! ### The invariant: reset and the updates the handlers are made of

Each lemma names the parts of the invariant that its update touches; the fields of every other part
are the old ones. Answers, draws and configuration writes touch none, so `State.Inv` of the new state is
that of the old one. -/

/-- Reset establishes the invariant: nothing is allocated, running, faulted or recorded. -/
theorem resetWith_inv {c : Config} (h : c.wf = true) : (State.resetWith c).Inv := by
  refine ⟨h, ⟨nofun, fun _ => .inl rfl⟩, ⟨fun _ => rfl, nofun⟩, ⟨nofun, nofun⟩, ?result,
    ⟨nofun, nofun⟩, ⟨rfl, rfl, rfl, rfl, nofun⟩, List.length_replicate, List.length_replicate⟩
  exact ⟨.inr ⟨rfl, nofun, rfl⟩, Nat.zero_le _, (Nat.zero_mul _).symm⟩

/-- Settles O49: the schedule is no part of the invariant. -/
theorem invariantAfterReset : Obligations.InvariantAfterReset := fun _ _ h => resetWith_inv h

section
variable {s : State}

/-- Without a fault bit R255's item says nothing. -/
theorem faultsOk_of_usable (h : s.faulted = false) : s.faultsOk := by
  obtain ⟨hr, hn⟩ := faulted_false h
  exact ⟨fun e => absurd e (by simp [hr]), fun e => absurd e (by simp [hn])⟩

/-- Outside SAMPLING the peripheral is not started (R50 item 4). -/
theorem periph_of_not_sampling (h : s.Inv) (hs : s.state ≠ .sampling) :
    s.periph = .uninit ∨ s.periph = .init := by
  obtain ⟨-, ⟨-, hp⟩, -⟩ := h
  exact hp hs

/-- A running peripheral belongs to a cycle in SAMPLING. -/
theorem sampling_of_running (h : s.Inv) (hr : s.periph = .running) : s.state = .sampling := by
  by_contra hs
  have := periph_of_not_sampling h hs
  simp [hr] at this

/-- An action drives pins of the port only. -/
theorem emit_inv (a : Action) (h : s.Inv) : (emit a s).Inv := by
  obtain ⟨hc, hs, hl, hf, hr, hm, hb, hmode, hlevel⟩ := h
  exact ⟨hc, hs, hl, hf, hr, hm, hb, (length_modesAfter ..).trans hmode,
    (length_levelsAfter ..).trans hlevel⟩

/-- Any state but SAMPLING suits a peripheral that is not started. -/
theorem setState_inv {st : SeqState} (h : s.Inv) (hu : s.faulted = false) (hst : st ≠ .sampling)
    (hp : s.periph = .uninit ∨ s.periph = .init) : (setState st s).Inv := by
  obtain ⟨hc, -, hl, -, hr, hm, ⟨hrx, htx, hrx', htx', -⟩, hport⟩ := h
  exact ⟨hc, ⟨fun e => absurd e hst, fun _ => hp⟩, hl, faultsOk_of_usable hu,
    hr, hm, ⟨hrx, htx, hrx', htx', fun e => absurd e hst⟩, hport⟩

/-- The peripheral may be initialised outside SAMPLING. -/
theorem setPeriph_init_inv (h : s.Inv) (hs : s.state ≠ .sampling) : (setPeriph .init s).Inv := by
  obtain ⟨hc, -, hl, hf, hr, -, hb, hport⟩ := h
  exact ⟨hc, ⟨fun e => absurd e hs, fun _ => .inr rfl⟩, hl, hf, hr, ⟨nofun, nofun⟩, hb, hport⟩

/-- The end of a cycle's transfer: IDLE with the peripheral deinitialised, then two actions. -/
theorem samplingExit_inv (h : s.Inv) (hu : s.faulted = false) :
    (setState .idle (samplingExit s)).Inv := by
  have ended : State.Inv { s with state := .idle, periph := .uninit } := by
    obtain ⟨hc, -, hl, -, hr, -, ⟨hrx, htx, hrx', htx', -⟩, hport⟩ := h
    exact ⟨hc, ⟨nofun, fun _ => .inl rfl⟩, hl, faultsOk_of_usable hu, hr,
      ⟨nofun, nofun⟩, ⟨hrx, htx, hrx', htx', nofun⟩, hport⟩
  exact emit_inv (.gpioWrite s.pinTrig false) (emit_inv .pUninit ended)

/-- A record of a result that fits the invariant. -/
theorem record_inv {status : ResultStatus} {cause : Cause} {n dist : Word} (h : s.Inv)
    (hr : (storeResult status cause n dist s).resultOk) : (record status cause n dist s).Inv := by
  have stored : (storeResult status cause n dist s).Inv := by
    obtain ⟨hc, hs, hl, hf, -, hm, hb, hport⟩ := h
    exact ⟨hc, hs, hl, hf, hr, hm, hb, hport⟩
  unfold record
  split
  · exact emit_inv _ stored
  · exact stored

/-- An error is recorded with no count and no distance (R210). -/
theorem record_error_inv {cause : Cause} (h : s.Inv) (hcause : cause ≠ .none) :
    (record .error cause 0#32 0#32 s).Inv :=
  record_inv h ⟨.inr ⟨rfl, hcause, rfl⟩, by simp, by simp⟩

/-- The capacity bounds every buffer's length. -/
theorem numSamples_le_capacity (h : s.Inv) : s.numSamples.toNat ≤ s.config.bufCapacityWords := by
  obtain ⟨-, -, ⟨hnone, hsome⟩, -⟩ := h
  cases ha : s.alloc
  · simp [hnone ha]
  · exact (hsome ha).2.1

/-- The success record holds N and its distance exactly: both fit 32 bits (R8, R195). -/
theorem recordSuccess_inv (h : s.Inv) : (recordSuccess s).Inv := by
  have hc : s.config.wf = true := h.1
  have hN : echoSum s ≤ 16 * s.config.bufCapacityWords :=
    (echoSum_le s).trans (Nat.mul_le_mul_left _ (numSamples_le_capacity h))
  have hcount : (BitVec.ofNat 32 (echoSum s)).toNat = echoSum s := by
    obtain ⟨-, -, -, -, -, -, -, -, -, hcap⟩ := wf_parts hc
    exact Nat.mod_eq_of_lt (by omega)
  have hdist : (BitVec.ofNat 32 (distanceUm s.config (echoSum s))).toNat
      = echoSum s * s.config.soundHalfSpeed := Nat.mod_eq_of_lt (distance_lt hc hN)
  refine record_inv h ⟨.inl ⟨rfl, rfl⟩, hcount.trans_le hN, ?_⟩
  rw [storeResult_resultDistUm, storeResult_resultCount, hcount, hdist]
  rfl

/-- The record and the return to IDLE touch different fields. -/
theorem setState_record (st : SeqState) (status : ResultStatus) (cause : Cause) (n dist : Word) :
    setState st (record status cause n dist s) = record status cause n dist (setState st s) := by
  unfold record
  cases hcb : s.cbEn <;> simp [hcb] <;> rfl

/-! ### The invariant: commands -/

/-- A fault is raised where R255 allows it. -/
theorem faultCommand_resize_inv (h : s.Inv) (hs : s.state = .idle) (ha : s.alloc = true) :
    (faultCommand .resize s).Inv := by
  obtain ⟨hc, hseq, hl, ⟨-, hn⟩, hrest⟩ := h
  exact ⟨hc, hseq, hl, ⟨fun _ => ⟨hs, ha⟩, hn⟩, hrest⟩

theorem faultCommand_nobuf_inv (h : s.Inv) (hs : s.state = .triggering) (ha : s.alloc = false) :
    (faultCommand .nobuf s).Inv := by
  obtain ⟨hc, hseq, hl, ⟨hr, -⟩, hrest⟩ := h
  exact ⟨hc, hseq, hl, ⟨hr, fun _ => ⟨hs, ha⟩⟩, hrest⟩

theorem setupDone_inv (h : s.Inv) : (setupDone s).Inv :=
  emit_inv (.gpioMode s.pinAux2 .output) (emit_inv (.gpioMode s.pinAux1 .output)
    (emit_inv (.gpioMode s.pinEcho .input) (emit_inv (.gpioWrite s.pinTrig false)
      (emit_inv (.gpioMode s.pinTrig .output) h))))

/-- Allocation of a legal length in IDLE: fresh buffers list nothing. -/
theorem allocate_inv {n : Nat} (h : s.Inv) (hu : s.faulted = false) (hs : s.state = .idle)
    (hlo : s.config.leadingOverheadSamples ≤ n) (hhi : n ≤ s.config.bufCapacityWords)
    (h4 : n % 4 = 0) : (allocate n s).Inv := by
  have hnum : (allocate n s).numSamples.toNat = n :=
    Nat.mod_eq_of_lt (lt_of_le_capacity h.1 hhi)
  obtain ⟨hc, ⟨-, hp⟩, -, -, hr, hm, -, hport⟩ := h
  have notSampling : (allocate n s).state ≠ .sampling := by simp [hs]
  refine ⟨hc, ⟨fun e => absurd e notSampling, hp⟩, ⟨nofun, fun _ => ?_⟩,
    faultsOk_of_usable hu, hr, hm,
    ⟨rfl, rfl, rfl, rfl, fun e => absurd e notSampling⟩, hport⟩
  rw [hnum]
  exact ⟨hlo, hhi, h4⟩

theorem setupBuffers_inv (h : s.Inv) (hu : s.faulted = false) (hs : s.state = .idle) (mm : Nat) :
    (setupBuffers (numSamplesFor s.config mm) s).Inv := by
  rcases setupBuffers_cases (numSamplesFor s.config mm) s with
    ⟨-, -, e⟩ | ⟨ha, -, e⟩ | ⟨-, -, e⟩ | ⟨-, hhi, e⟩ <;> rw [e]
  · exact setupDone_inv h
  · exact faultCommand_resize_inv h hs ha
  · exact h
  · exact setupDone_inv (allocate_inv h hu hs (le_numSamplesFor ..) hhi (numSamplesFor_mod h.1 mm))

/-- IDLE may always go to TRIGGERING. -/
theorem trigger_inv (h : s.Inv) (hu : s.faulted = false) (hs : s.state = .idle) :
    (setState .triggering s).Inv :=
  setState_inv h hu nofun (periph_of_not_sampling h (by simp [hs]))

theorem idleHandler_inv (now : Word) (h : s.Inv) (hu : s.faulted = false) (hs : s.state = .idle) :
    (idleHandler now s).Inv := by
  rcases idleHandler_cases now s with ⟨-, e⟩ | ⟨-, e⟩ <;> rw [e]
  · exact trigger_inv h hu hs
  · exact h

/-- Preparing a cycle zeroes the count and both buffers, before the peripheral is started. -/
theorem prepareCycle_inv (h : s.Inv) (hp : s.periph = .init) : (prepareCycle s).Inv := by
  obtain ⟨hc, hseq, hl, hf, hr, -, -, hport⟩ := h
  refine ⟨hc, hseq, hl, hf, hr, ⟨?running, ?stopped⟩,
    ⟨rfl, writeIn_wf _ _ _ rfl, rfl, writeIn_within _ _ rfl, fun _ => ⟨rfl, writeIn_fill ..⟩⟩, hport⟩
  all_goals simp [hp]

theorem startedCycle_inv (h : s.Inv) (hs : s.state ≠ .sampling) : (startedCycle s).Inv :=
  emit_inv _ (prepareCycle_inv (setPeriph_init_inv (emit_inv _ h) hs) rfl)

/-- SAMPLING is entered with buffers that were zeroed and a count of 0, which is below
BUFS_FOR_COMPLETE (R8). -/
theorem enterSampling_inv (now : Word) (h : s.Inv) (hu : s.faulted = false) (ha : s.alloc = true)
    (hb : s.bufreq = 0#32) (hrx : s.rx.fill = .zero) (htx : s.tx.fill = .zero) :
    (enterSampling now s).Inv := by
  obtain ⟨hc, -, hl, -, hr, -, ⟨hrxw, htxw, hrxi, htxi, -⟩, hport⟩ := h
  obtain ⟨-, -, -, -, -, -, hbufs, -⟩ := wf_parts hc
  refine ⟨hc, ⟨fun _ => ⟨ha, .inl rfl⟩, fun e => absurd rfl e⟩, hl,
    faultsOk_of_usable hu, hr, ⟨fun _ => ?_, nofun⟩,
    ⟨hrxw, htxw, hrxi, htxi, fun _ => ⟨hrx, htx⟩⟩, hport⟩
  simp only [enterSampling_bufreq, enterSampling_config, hb]
  exact hbufs

/-- A failed start records an error and returns to IDLE. -/
theorem triggerFailed_inv {cause : Cause} (h : s.Inv) (hu : s.faulted = false)
    (hs : s.state ≠ .sampling) (hcause : cause ≠ .none) : (triggerFailed cause s).Inv := by
  rw [triggerFailed, setState_record]
  exact record_error_inv (setState_inv h hu nofun (periph_of_not_sampling h hs)) hcause

theorem triggeringHandler_inv (d : Draws) (h : s.Inv) (hu : s.faulted = false)
    (hs : s.state = .triggering) (ha : s.alloc = true) : (triggeringHandler d s).Inv := by
  have hns : s.state ≠ .sampling := by simp [hs]
  rcases triggeringHandler_cases d s with ⟨-, e⟩ | ⟨-, -, e⟩ | ⟨-, -, e⟩ <;> rw [e]
  · exact triggerFailed_inv (emit_inv _ h) hu hns nofun
  · exact triggerFailed_inv (startedCycle_inv h hns) hu hns nofun
  · exact enterSampling_inv _ (startedCycle_inv h hns) hu ha rfl rfl (writeIn_fill ..)

theorem samplingHandler_inv (now : Word) (h : s.Inv) (hu : s.faulted = false) :
    (samplingHandler now s).Inv := by
  rcases samplingHandler_cases now s with ⟨-, e⟩ | ⟨-, -, e⟩ | ⟨-, -, e⟩ <;> rw [e]
  · rw [recordSuccess, setState_record]
    exact recordSuccess_inv (samplingExit_inv h hu)
  · rw [setState_record]
    exact record_error_inv (samplingExit_inv h hu) nofun
  · exact h

theorem execAdvance_inv {t : State} (h : s.Inv) (hx : execAdvance s = .next t) : t.Inv := by
  rcases execAdvance_next hx with ⟨-, rfl⟩ | ⟨hu, ⟨hs, rfl⟩ | ⟨hs, ha, rfl⟩ | ⟨hs, ha, rfl⟩ | ⟨-, rfl⟩⟩
  · exact h
  · exact idleHandler_inv (s := redraw s) _ h hu hs
  · exact faultCommand_nobuf_inv (s := redraw s) h hs ha
  · exact triggeringHandler_inv (s := redraw s) _ h hu hs ha
  · exact samplingHandler_inv (s := redraw s) _ h hu

theorem exec_inv {i : Instr} {t : State} (h : s.Inv) (hx : exec i s = .next t) : t.Inv := by
  rcases exec_next hx with ⟨e, rfl⟩ | ⟨hu, ⟨-, _, _, _, _, _, _, _, rfl⟩ | ⟨-, hs, -, rfl⟩ |
    ⟨-, hs, rfl⟩ | ⟨-, ha⟩ | ⟨d, rfl⟩⟩
  · exact h
  · exact h
  · exact setupBuffers_inv h hu hs _
  · exact (trigger_inv h hu hs :)
  · exact execAdvance_inv h ha
  · exact h

theorem execute_inv {w : Word} {t : State} (h : s.Inv) (hx : execute w s = .next t) : t.Inv := by
  rcases execute_next hx with ⟨e, rfl⟩ | ⟨i, -, hi⟩
  · exact h
  · exact exec_inv h hi

/-! ### The invariant: the peripheral, the stimuli and the step -/

/-- A count that does not complete the transfer: a running peripheral stays below BUFS_FOR_COMPLETE, and
a stopped one at or above it. -/
theorem count_inv (h : s.Inv)
    (hn : ¬ (s.bufreq.toNat + 1 = s.config.bufsForComplete ∧ s.periph = .running)) :
    State.Inv { s with bufreq := saturatingIncr s.bufreq } := by
  obtain ⟨hc, hseq, hl, hf, hr, ⟨hrun, hstop⟩, hb, hport⟩ := h
  refine ⟨hc, hseq, hl, hf, hr, ⟨fun hp => ?running, fun hp => ?stopped⟩, hb, hport⟩
  all_goals simp only at hp ⊢; rw [saturatingIncr_toNat]
  case running =>
    have := hrun hp
    have : s.bufreq.toNat + 1 ≠ s.config.bufsForComplete := fun e => hn ⟨e, hp⟩
    omega
  case stopped =>
    have := hstop hp
    have := s.bufreq.isLt
    omega

/-- The count that completes the transfer stops the peripheral (R231). -/
theorem countAndStop_inv (h : s.Inv) (hn : s.bufreq.toNat + 1 = s.config.bufsForComplete)
    (hp : s.periph = .running) :
    State.Inv { s with bufreq := saturatingIncr s.bufreq, periph := .stopped } := by
  have hs := sampling_of_running h hp
  obtain ⟨hc, ⟨hseq, -⟩, hl, hf, hr, -, hb, hport⟩ := h
  refine ⟨hc, ⟨fun _ => ⟨(hseq hs).1, .inr rfl⟩, fun e => absurd hs e⟩, hl, hf, hr,
    ⟨nofun, fun _ => ?_⟩, hb, hport⟩
  simp only
  rw [saturatingIncr_toNat]
  omega

theorem bufNeeded_inv (h : s.Inv) : (bufNeeded s).Inv := by
  rcases bufNeeded_cases s with ⟨-, e⟩ | ⟨-, hn, e⟩ | ⟨-, hn, hp, e⟩ <;> rw [e]
  · exact h
  · exact count_inv h hn
  · exact emit_inv .pStop (countAndStop_inv h hn hp)

/-- The peripheral's write keeps RX canonical, within its length, and its fill. -/
theorem periphWrite_inv {write : Memory → Memory} (h : s.Inv)
    (hwf : ∀ m, m.wf = true → (write m).wf = true)
    (hin : ∀ m : Memory, m.within s.numSamples.toNat = true →
      (write m).within s.numSamples.toNat = true)
    (hfill : ∀ m, (write m).fill = m.fill) : (periphWrite write s).Inv := by
  rcases periphWrite_cases write s with ⟨-, e⟩ | ⟨-, e⟩ <;> rw [e]
  · obtain ⟨hc, hseq, hl, hf, hr, hm, ⟨hrx, htx, hrx', htx', hz⟩, hport⟩ := h
    exact ⟨hc, hseq, hl, hf, hr, hm, ⟨hwf _ hrx, htx, hin _ hrx', htx',
      fun hs => ⟨(hfill _).trans (hz hs).1, (hz hs).2⟩⟩, hport⟩
  · exact h

theorem applyStimulus_inv {e : Stimulus} {t : State} (h : s.Inv)
    (hx : applyStimulus e s = .next t) : t.Inv := by
  rcases applyStimulus_next hx with rfl | ⟨v, rfl⟩ | ⟨w, hw⟩ | ⟨-, rfl⟩ | ⟨i, v, -, rfl⟩ |
    ⟨u, v, -, rfl⟩ | ⟨d, rfl⟩ | ⟨-, rfl⟩
  · exact h
  · exact h
  · exact execute_inv h hw
  · exact bufNeeded_inv h
  · exact periphWrite_inv h (fun _ => writeIn_wf _ i v) (fun _ => writeIn_within i v)
      fun _ => writeIn_fill ..
  · exact periphWrite_inv h (fun _ => writeUnit_wf _ u v) (fun _ => writeUnit_within u v)
      fun _ => writeUnit_fill ..
  · exact h
  · exact resetWith_inv h.1

/-- Taking a stimulus touches no part of the invariant, and the stimulus keeps it. -/
theorem step_inv {t : State} (h : s.Inv) (hx : step s = .next t) : t.Inv := by
  obtain ⟨-, ag, ix, -, ha⟩ := step_next hx
  exact applyStimulus_inv (s := { s with agenda := ag, freeIx := ix }) h ha

end

/-- Settles O50: by the operation the step runs, each of which keeps the invariant. -/
theorem stepKeepsTheInvariant : Obligations.StepKeepsTheInvariant := fun _ _ h hx => step_inv h hx

/-! ### R50 in every reachable state -/

/-- Every reachable state meets the invariant. -/
theorem reachable_inv {s : State} (h : s.Reachable) : s.Inv :=
  reachable_of_kept State.Inv invariantAfterReset stepKeepsTheInvariant h

/-- SAMPLE_ONCE outside IDLE is refused and changes RESP only (R50 item 5, R146). -/
theorem execSampleOnce_refused {s : State} (h : s.state ≠ .idle) :
    ∃ e, exec .sampleOnce s = .next (reject e s) := by
  obtain ⟨t, ht⟩ := exec_answers .sampleOnce s
  rcases execSampleOnce_next ht with ⟨e, rfl⟩ | ⟨-, hi, -⟩
  · exact ⟨e, ht⟩
  · exact absurd hi h

/-- Settles O51: items 1 to 4 are parts of the invariant, item 5 is SAMPLE_ONCE's refusal. -/
theorem reachableStatesKeepR50 : Obligations.ReachableStatesKeepR50 := by
  intro s hr
  obtain ⟨-, ⟨hsampling, hperiph⟩, ⟨hnone, hsome⟩, -⟩ := reachable_inv hr
  refine ⟨hsampling, hnone, hsome, fun hs => ?_, fun hs => ?_⟩
  · exact hperiph (by rcases hs with hs | hs <;> simp [hs])
  · obtain ⟨e, he⟩ := execSampleOnce_refused hs
    exact ⟨_, he, rfl, rfl⟩

/-! ### BUFREQ -/

/-- The ADVANCE of this state zeroes BUFREQ: TRIGGERING with buffers, and P_INIT will succeed (R166). -/
abbrev State.startsCount (s : State) : Prop :=
  s.state = .triggering ∧ s.alloc = true ∧ s.draws.initOk = true ∧ s.faulted = false

@[simp] theorem setupBuffers_bufreq (n : Nat) (s : State) :
    (setupBuffers n s).bufreq = s.bufreq := by
  rcases setupBuffers_cases n s with ⟨-, -, e⟩ | ⟨-, -, e⟩ | ⟨-, -, e⟩ | ⟨-, -, e⟩ <;>
    simp [e, setupDone, faultCommand]

@[simp] theorem idleHandler_bufreq (now : Word) (s : State) :
    (idleHandler now s).bufreq = s.bufreq := by
  rcases idleHandler_cases now s with ⟨-, e⟩ | ⟨-, e⟩ <;> simp [e]

@[simp] theorem triggerFailed_bufreq (c : Cause) (s : State) :
    (triggerFailed c s).bufreq = s.bufreq := record_bufreq ..

@[simp] theorem samplingHandler_bufreq (now : Word) (s : State) :
    (samplingHandler now s).bufreq = s.bufreq := by
  rcases samplingHandler_cases now s with ⟨-, e⟩ | ⟨-, -, e⟩ | ⟨-, -, e⟩ <;>
    simp [e, recordSuccess]

/-- The TRIGGERING handler zeroes the count when P_INIT succeeds. -/
theorem triggeringHandler_bufreq (d : Draws) (s : State) :
    (triggeringHandler d s).bufreq = s.bufreq
      ∨ d.initOk = true ∧ (triggeringHandler d s).bufreq = 0#32 := by
  rcases triggeringHandler_cases d s with ⟨-, e⟩ | ⟨hi, -, e⟩ | ⟨hi, -, e⟩
  · exact .inl (by simp [e])
  · exact .inr ⟨hi, by simp [e, startedCycle]⟩
  · exact .inr ⟨hi, by simp [e, startedCycle]⟩

theorem execAdvance_bufreq {s t : State} (h : execAdvance s = .next t) :
    t.bufreq = s.bufreq ∨ t.bufreq = 0#32 ∧ s.startsCount := by
  rcases execAdvance_next h with
    ⟨-, rfl⟩ | ⟨hu, ⟨-, rfl⟩ | ⟨-, -, rfl⟩ | ⟨hs, ha, rfl⟩ | ⟨-, rfl⟩⟩
  · exact .inl rfl
  · exact .inl (idleHandler_bufreq _ (redraw s))
  · exact .inl rfl
  · exact (triggeringHandler_bufreq s.draws (redraw s)).imp_right
      fun ⟨hi, hb⟩ => ⟨hb, hs, ha, hi, hu⟩
  · exact .inl (samplingHandler_bufreq _ (redraw s))

/-- ADVANCE is the only command that changes BUFREQ. -/
theorem exec_bufreq {i : Instr} {s t : State} (h : exec i s = .next t) :
    t.bufreq = s.bufreq ∨ t.bufreq = 0#32 ∧ i = .advance ∧ s.startsCount := by
  rcases exec_next h with ⟨e, rfl⟩ | ⟨-, ⟨-, _, _, _, _, _, _, _, rfl⟩ | ⟨-, -, -, rfl⟩ |
    ⟨-, -, rfl⟩ | ⟨hi, ha⟩ | ⟨d, rfl⟩⟩
  · exact .inl rfl
  · exact .inl rfl
  · exact .inl (setupBuffers_bufreq _ s)
  · exact .inl rfl
  · exact (execAdvance_bufreq ha).imp_right fun ⟨hb, hs⟩ => ⟨hb, hi, hs⟩
  · exact .inl rfl

theorem execute_bufreq {w : Word} {s t : State} (h : execute w s = .next t) :
    t.bufreq = s.bufreq ∨ t.bufreq = 0#32 ∧ decode w = .ok .advance ∧ s.startsCount := by
  rcases execute_next h with ⟨e, rfl⟩ | ⟨i, hd, hi⟩
  · exact .inl rfl
  · exact (exec_bufreq hi).imp_right fun ⟨hb, hadv, hs⟩ => ⟨hb, hadv ▸ hd, hs⟩

/-- A notification is counted unless the PWS is faulted (R230). -/
theorem bufNeeded_bufreq (s : State) :
    (bufNeeded s).bufreq = s.bufreq
      ∨ s.faulted = false ∧ (bufNeeded s).bufreq.toNat = min (s.bufreq.toNat + 1) (2 ^ 32 - 1) := by
  rcases bufNeeded_cases s with ⟨-, e⟩ | ⟨hu, -, e⟩ | ⟨hu, -, -, e⟩
  · exact .inl (by rw [e])
  · exact .inr ⟨hu, by rw [e]; exact saturatingIncr_toNat _⟩
  · exact .inr ⟨hu, by rw [e]; exact saturatingIncr_toNat _⟩

@[simp] theorem periphWrite_bufreq (write : Memory → Memory) (s : State) :
    (periphWrite write s).bufreq = s.bufreq := by
  rcases periphWrite_cases write s with ⟨-, e⟩ | ⟨-, e⟩ <;> simp [e]

/-- Everything a host read can do. -/
theorem hostRead_next {addr width : Nat} {s t : State} (h : hostRead addr width s = .next t) :
    ∃ v, t = { s with busData := v } := by
  unfold hostRead at h
  split at h
  · cases h; exact ⟨_, rfl⟩
  · cases h

/-- Everything a host write can do: it is ignored, or it is one aligned write of CMD. -/
theorem hostWrite_next {addr width : Nat} {v : Word} {s t : State}
    (h : hostWrite addr width v s = .next t) :
    t = s ∨ addr = s.config.regBase ∧ width = 4 ∧ execute v s = .next t := by
  unfold hostWrite at h
  split at h
  case h_1 off hoff =>
    split at h
    · rename_i hcmd
      obtain ⟨hlo, -, hwidth, -, -, hsub⟩ := windowOffset_ok hoff
      have hzero : off = 0 := hcmd
      exact .inr ⟨by omega, hwidth, h⟩
    · cases h; exact .inl rfl
  case h_2 => cases h

/-- What a stimulus may do to BUFREQ. -/
theorem applyStimulus_bufreq {e : Stimulus} {s t : State} (h : applyStimulus e s = .next t) :
    t.bufreq = s.bufreq
      ∨ e = .bufNeeded ∧ s.faulted = false ∧ t.bufreq.toNat = min (s.bufreq.toNat + 1) (2 ^ 32 - 1)
      ∨ t.bufreq = 0#32 ∧ ((e = .reset ∨ e = .powerDown)
        ∨ (∃ w, e = .hostWrite s.config.regBase 4 w ∧ decode w = .ok .advance)
          ∧ s.startsCount) := by
  cases e with
  | quiet | present d => cases h; exact .inl rfl
  | hostRead a n =>
    obtain ⟨v, rfl⟩ := hostRead_next h
    exact .inl rfl
  | hostWrite a n v =>
    rcases hostWrite_next h with rfl | ⟨rfl, rfl, hx⟩
    · exact .inl rfl
    · exact (execute_bufreq hx).imp_right
        fun ⟨hb, hd, hs⟩ => .inr ⟨hb, .inr ⟨⟨v, rfl, hd⟩, hs⟩⟩
  | bufNeeded => cases h; exact (bufNeeded_bufreq s).imp_right fun hb => .inl ⟨rfl, hb⟩
  | rxWord i v | rxUnit u v => cases h; exact .inl (periphWrite_bufreq _ s)
  | reset => cases h; exact .inr (.inr ⟨rfl, .inl (.inl rfl)⟩)
  | powerDown => cases h; exact .inr (.inr ⟨rfl, .inl (.inr rfl)⟩)

/-- Settles O38: by the stimulus the step takes. -/
theorem bufreqOnlyCounts : Obligations.BufreqOnlyCounts := by
  intro s t h
  obtain ⟨-, ag, ix, -, ha⟩ := step_next h
  exact (applyStimulus_bufreq ha :)

end Sys2Proof.Machine
end

section
/-!
SUPPORT. The family 20_memory.md: the peripheral's writes into the sample buffer RX (R64 to R68) and the
host's accesses of the register window (R60 to R63).
-/

namespace Sys2Proof.Machine

/-! ### Sample words and transfer units -/

theorem writeIn_inside (m : Memory) {n i : Nat} (v : Sample) (h : i < n) :
    m.writeIn n i v = m.writeSample i v := if_pos h

theorem writeIn_outside (m : Memory) {n i : Nat} (v : Sample) (h : n ≤ i) :
    m.writeIn n i v = m := if_neg (Nat.not_lt.mpr h)

/-- A unit inside the buffer is its two words, the low one first (R65). -/
theorem writeUnit_inside (m : Memory) {n u : Nat} (v : Word) (h : 2 * u + 1 < n) :
    m.writeUnit n u v
      = (m.writeSample (2 * u) (v.extractLsb' 0 16)).writeSample (2 * u + 1)
          (v.extractLsb' 16 16) := by
  rw [Memory.writeUnit, writeIn_inside _ _ (Nat.lt_of_succ_lt h), writeIn_inside _ _ h]

theorem writeUnit_outside (m : Memory) {n u : Nat} (v : Word) (h : n ≤ 2 * u) :
    m.writeUnit n u v = m := by
  rw [Memory.writeUnit, writeIn_outside _ _ (by omega), writeIn_outside _ _ h]

/-- A word's write touches its own two bytes only. -/
theorem readByte_writeSample_ne (m : Memory) {i a : Nat} (v : Sample) (hlow : a ≠ 2 * i)
    (hhigh : a ≠ 2 * i + 1) : (m.writeSample i v).readByte a = m.readByte a := by
  rw [Memory.writeSample, readByte_writeByte_ne _ _ hhigh.symm, readByte_writeByte_ne _ _ hlow.symm]

/-- A written unit reads back, word by word and whole (R65). -/
theorem read_writeUnit_same {m : Memory} {n u : Nat} (v : Word) (hm : m.wf = true)
    (h : 2 * u + 1 < n) :
    (m.writeUnit n u v).readSample (2 * u) = v.extractLsb' 0 16
      ∧ (m.writeUnit n u v).readSample (2 * u + 1) = v.extractLsb' 16 16
      ∧ (m.writeUnit n u v).readUnit u = v := by
  have hlow : (m.writeUnit n u v).readSample (2 * u) = v.extractLsb' 0 16 := by
    rw [writeUnit_inside m v h, readSample_writeSample_ne _ _ (Nat.succ_ne_self _),
      readSample_writeSample_same _ _ hm]
  have hhigh : (m.writeUnit n u v).readSample (2 * u + 1) = v.extractLsb' 16 16 := by
    rw [writeUnit_inside m v h, readSample_writeSample_same _ _ (writeSample_wf _ _ hm)]
  refine ⟨hlow, hhigh, ?_⟩
  rw [Memory.readUnit, hlow, hhigh, BitVec.extractLsb'_append_extractLsb'_eq_extractLsb' (by rfl),
    BitVec.extractLsb'_eq_self]

/-- A unit's write touches its own four bytes only. -/
theorem readByte_writeUnit_ne (m : Memory) {n u a : Nat} (v : Word) (h : 2 * u + 1 < n)
    (hout : a < 4 * u ∨ 4 * u + 4 ≤ a) : (m.writeUnit n u v).readByte a = m.readByte a := by
  rw [writeUnit_inside m v h, readByte_writeSample_ne _ _ (by omega) (by omega),
    readByte_writeSample_ne _ _ (by omega) (by omega)]

/-! ### The peripheral's writes -/

theorem periphWrite_of_running (write : Memory → Memory) {s : State} (h : s.periph = .running) :
    periphWrite write s = { s with rx := write s.rx } := if_pos h

theorem periphWrite_of_not_running (write : Memory → Memory) {s : State}
    (h : s.periph ≠ .running) : periphWrite write s = s := if_neg h

/-- A write that leaves RX alone leaves the state alone, started or not. -/
theorem periphWrite_of_rx_kept {write : Memory → Memory} {s : State} (h : write s.rx = s.rx) :
    periphWrite write s = s := by
  rcases periphWrite_cases write s with ⟨-, e⟩ | ⟨-, e⟩
  · rw [e, h]
  · exact e

/-- While the peripheral runs, a word inside the buffer is written and nothing else changes (R68). -/
theorem applyStimulus_rxWord_inside {s : State} {i : Nat} {v : Sample} (hp : s.periph = .running)
    (hi : i < s.numSamples.toNat) :
    applyStimulus (.rxWord i v) s = .next { s with rx := s.rx.writeSample i v } := by
  rw [applyStimulus, periphWriteWord, periphWrite_of_running _ hp, writeIn_inside _ _ hi]

/-- While the peripheral runs, a unit is written and nothing else changes (R65, R68). -/
theorem applyStimulus_rxUnit_running {s : State} {u : Nat} {v : Word} (hp : s.periph = .running) :
    applyStimulus (.rxUnit u v) s
      = .next { s with rx := s.rx.writeUnit s.numSamples.toNat u v } := by
  rw [applyStimulus, periphWriteUnit, periphWrite_of_running _ hp]

/-- A word past the end of the buffer changes nothing (log 11). -/
theorem applyStimulus_rxWord_outside {s : State} {i : Nat} {v : Sample}
    (hi : s.numSamples.toNat ≤ i) : applyStimulus (.rxWord i v) s = .next s :=
  congrArg Host.Outcome.next (periphWrite_of_rx_kept (writeIn_outside _ v hi))

/-- A unit past the end of the buffer changes nothing (log 11). -/
theorem applyStimulus_rxUnit_outside {s : State} {u : Nat} {v : Word}
    (hu : s.numSamples.toNat ≤ 2 * u) : applyStimulus (.rxUnit u v) s = .next s :=
  congrArg Host.Outcome.next (periphWrite_of_rx_kept (writeUnit_outside _ v hu))

/-- A write of a peripheral that is not started changes nothing (log 8). -/
theorem applyStimulus_rx_not_running {e : Stimulus} {s : State}
    (he : (∃ i v, e = .rxWord i v) ∨ ∃ u v, e = .rxUnit u v) (hp : s.periph ≠ .running) :
    applyStimulus e s = .next s := by
  rcases he with ⟨i, v, rfl⟩ | ⟨u, v, rfl⟩
  · rw [applyStimulus, periphWriteWord, periphWrite_of_not_running _ hp]
  · rw [applyStimulus, periphWriteUnit, periphWrite_of_not_running _ hp]

/-- Settles O39: the write reaches RX, where a word reads back what was written to it and keeps what was
written beside it. -/
theorem peripheralWritesReadBack : Obligations.PeripheralWritesReadBack := by
  intro s rest hinv hp
  obtain ⟨hc, -, -, -, -, -, ⟨hwf, -⟩, -⟩ := hinv
  refine ⟨fun i v hi ha => ?word, fun u v hu ha => ?unit⟩
  case word =>
    exact ⟨_, (step_scheduled hc ha).trans (applyStimulus_rxWord_inside hp hi), rfl,
      readSample_writeSample_same i v hwf,
      fun _ hlow hhigh => readByte_writeSample_ne _ v hlow hhigh⟩
  case unit =>
    obtain ⟨hlow, hhigh, hunit⟩ := read_writeUnit_same v hwf hu
    exact ⟨_, (step_scheduled hc ha).trans (applyStimulus_rxUnit_running hp), rfl, hlow, hhigh,
      hunit, fun _ hout => readByte_writeUnit_ne _ v hu hout⟩

/-- Settles O40: a write of a peripheral that is not started, or past the end of RX, leaves RX alone. -/
theorem peripheralWritesBounded : Obligations.PeripheralWritesBounded := by
  intro s rest hc
  refine ⟨fun hp e he ha => ?_, fun i v hi ha => ?_, fun u v hu ha => ?_⟩ <;>
    rw [step_scheduled hc ha]
  · exact applyStimulus_rx_not_running he hp
  · exact applyStimulus_rxWord_outside hi
  · exact applyStimulus_rxUnit_outside hu

/-! ### What a register reads -/

/-- The host's view of a register does not depend on the schedule. -/
theorem readReg_agenda (r : Reg) (s : State) (rest : List Stimulus) :
    readReg r { s with agenda := rest } = readReg r s := by
  cases r <;> rfl

/-- A field at the low end of a register has reserved bits above it, and they read 0. -/
theorem fieldAt_zero_append {n m : Nat} (v : BitVec m) : fieldAt (0#n ++ v) 0 = fieldAt v 0 := by
  rw [fieldAt_append, fieldAt_zero, BitVec.or_zero]

/-- A 24-bit register reads 0 in bits 31:24 (R40, R41). -/
theorem setWidth_u24 (v : U24) : v.setWidth 32 = 0#8 ++ v := by
  calc v.setWidth 32 = fieldAt v 0 := (BitVec.shiftLeft_zero _).symm
    _ = fieldAt (0#8 ++ v) 0 := (fieldAt_zero_append v).symm
    _ = 0#8 ++ v := fieldAt_word _

/-- CFG_FLAGS is CB_EN under reserved bits (R42). -/
theorem flagsWord_layout (b : Bool) : fieldAt (BitVec.ofBool b) 0 = 0#31 ++ BitVec.ofBool b :=
  (fieldAt_zero_append (n := 31) (BitVec.ofBool b)).symm.trans (fieldAt_word _)

/-- The aligned offsets from 0x34 on are reserved (R23, R48). -/
theorem regAt_reserved {off : Nat} (h : 0x34 ≤ off) : regAt off = .reserved off := by
  obtain ⟨k, rfl⟩ := Nat.exists_eq_add_of_le' h
  rfl

/-! ### Host accesses of the window -/

/-- A scheduled read of an aligned offset returns the register there, and nothing else changes (R62). -/
theorem step_hostRead {s : State} {off : Nat} {rest : List Stimulus} (hc : s.config.wf = true)
    (ha : s.agenda = .hostRead (s.config.regBase + off) 4 :: rest) (h4 : off % 4 = 0)
    (h : off < 0x40) :
    step s = .next { s with agenda := rest, busData := readReg (regAt off) s } := by
  rw [step_scheduled hc ha, applyStimulus, hostRead]
  simp only [windowOffset_aligned (regBase_aligned hc) h4 h, readReg_agenda]

/-- Settles O41: the register at each offset is R23's, and its word reads its fields. -/
theorem hostReadHasNoSideEffect : Obligations.HostReadHasNoSideEffect := by
  intro s off rest hc ha h4 h
  refine ⟨_, step_hostRead hc ha h4 h, ?_⟩
  refine ⟨?_, ?_, ?_, ?_, ?_, ?_, ?_, ?_, ?_, ?pins, ?range, ?interval, ?flags, ?reserved⟩
  case pins => rintro rfl; exact pinsWord_layout s
  case range => rintro rfl; exact setWidth_u24 s.rangeMm
  case interval => rintro rfl; exact setWidth_u24 s.intervalMs
  case flags => rintro rfl; exact flagsWord_layout s.cbEn
  case reserved => intro hr; rw [regAt_reserved hr]; rfl
  all_goals rintro rfl; rfl

/-- A scheduled write of an aligned offset other than CMD's is ignored (R63, R48). -/
theorem step_hostWrite_ignored {s : State} {off : Nat} {v : Word} {rest : List Stimulus}
    (hc : s.config.wf = true) (ha : s.agenda = .hostWrite (s.config.regBase + off) 4 v :: rest)
    (h4 : off % 4 = 0) (hpos : 0 < off) (h : off < 0x40) :
    step s = .next { s with agenda := rest } := by
  rw [step_scheduled hc ha, applyStimulus, hostWrite]
  simp only [windowOffset_aligned (regBase_aligned hc) h4 h]
  exact if_neg hpos.ne'

theorem execSampleOnce_idle {s : State} (h : s.faulted = false) (hs : s.state = .idle) :
    execSampleOnce s = .next (succeed 0#16 (setState .triggering s)) := by
  rw [execSampleOnce, command_usable _ h, whenIdle_idle _ hs]

theorem execSampleOnce_busy {s : State} (h : s.faulted = false) (hs : s.state ≠ .idle) :
    execSampleOnce s = .next (reject .busy s) := by
  rw [execSampleOnce, command_usable _ h, whenIdle_busy _ hs]

/-- Settles O43: CMD executes, every other offset ignores, and the first SAMPLE_ONCE leaves IDLE, which
the second one needs. -/
theorem hostWriteOnlyReachesCmd : Obligations.HostWriteOnlyReachesCmd := by
  intro s v rest hc
  refine ⟨step_cmdWrite hc, fun _ ha h4 => step_hostWrite_ignored hc ha h4, fun hu hs => ?_⟩
  have hd : decode 0x11000000#32 = .ok .sampleOnce := rfl
  refine ⟨succeed 0#16 (setState .triggering s), ?_, rfl, ?_⟩ <;> rw [execute_decoded hd]
  · exact execSampleOnce_idle hu hs
  · exact execSampleOnce_busy (s := succeed 0#16 (setState .triggering s)) hu nofun

/-- An address outside the window is not the PWS's (R61). -/
theorem windowOffset_outside {c : Config} {addr width : Nat}
    (h : addr < c.regBase ∨ c.regBase + 0x40 ≤ addr) :
    windowOffset c addr width = .error .outsideWindow := if_pos h

/-- An access of the window that is misaligned or not 32 bits wide is given no step (R61). -/
theorem windowOffset_malformed {c : Config} {addr width : Nat} (hlo : c.regBase ≤ addr)
    (hhi : addr < c.regBase + 0x40) (h : width ≠ 4 ∨ addr % 4 ≠ 0) :
    windowOffset c addr width = .error .busError := by
  unfold windowOffset windowBytes
  rw [if_neg (by omega), if_neg (by omega)]

/-- A host access that reaches no register stops, read or write alike. -/
theorem applyStimulus_stuck {e : Stimulus} {addr width : Nat} {v : Word} {s : State} {f : Fault}
    (he : e ∈ [Stimulus.hostRead addr width, .hostWrite addr width v])
    (hw : windowOffset s.config addr width = .error f) : applyStimulus e s = .fault f := by
  rcases List.mem_pair.mp he with rfl | rfl
  · simp only [applyStimulus, hostRead, hw]
  · simp only [applyStimulus, hostWrite, hw]

/-- Settles O44: the window's check decides, and a host access it allows answers. -/
theorem malformedAccessStops : Obligations.MalformedAccessStops := by
  intro s addr width v rest hc e he ha
  rw [step_scheduled hc ha]
  refine ⟨fun hlo hhi h => ?_, fun h => ?_, fun hlo hhi hwidth h4 => ?_⟩
  · exact applyStimulus_stuck he (windowOffset_malformed hlo hhi h)
  · exact applyStimulus_stuck he (windowOffset_outside h)
  · have hin : inWindow s.config addr width := ⟨hlo, hhi, hwidth, h4⟩
    rcases List.mem_pair.mp he with rfl | rfl
    · exact applyStimulus_answers hc (by rintro _ _ ⟨⟩; exact hin) nofun
    · exact applyStimulus_answers hc nofun (by rintro _ _ _ ⟨⟩; exact hin)

end Sys2Proof.Machine
end

section
/-!
SUPPORT. The family 30_encoding.md: the encoder and the decoder invert each other (R90 to R92), the
opcode map as the two fields of a word, assembler lines and pseudo-instructions (R98, R99), and what
execute answers (R93, R95, R97).
-/

namespace Sys2Proof

/-! ### Decoding a command's word -/

/-- The decoder reads every command's own word. -/
theorem decode_encode (i : Instr) : decode (encode i) = .ok i := by
  unfold decode
  cases i with
  | cfgTrig v | cfgEcho v | cfgAux1 v | cfgAux2 v | cfgCallback v | popcnt16 v =>
    simp [encode, withOperand]
  | cfgRange u | cfgInterval u => simp [encode, operandU24, withOperand]
  | setup | sampleOnce | advance | getResult => simp [encode, operandN, withOperand]

/-- A word is given by what its two fields hold. -/
theorem commandWord_eq_of_fields {w : Word} {opc : BitVec 8} {o : BitVec 24}
    (hopc : opcField w = opc) (ho : o = operandField w) : commandWord opc o = w := by
  rw [← hopc, ho, commandWord_fields]

/-- A legal word is its command's: the operand is the value its form reads, extended (R91). -/
theorem encode_of_decode {w : Word} {i : Instr} (h : decode w = .ok i) : encode i = w := by
  rcases decode_ok h with ⟨p, rfl, hopc, hr⟩ | ⟨p, rfl, hopc, hr⟩ | ⟨p, rfl, hopc, hr⟩ |
    ⟨p, rfl, hopc, hr⟩ | ⟨u, rfl, hopc, hr⟩ | ⟨u, rfl, hopc, hr⟩ | ⟨b, rfl, hopc, hr⟩ |
    ⟨rfl, hopc, hr⟩ | ⟨rfl, hopc, hr⟩ | ⟨rfl, hopc, hr⟩ | ⟨rfl, hopc, hr⟩ | ⟨v, rfl, hopc, hr⟩
  -- the forms in the table's order: P, U24, B, N, W16
  iterate 4 exact commandWord_eq_of_fields hopc (operandP_some hr)
  iterate 2 exact commandWord_eq_of_fields hopc (operandU24_some hr)
  · exact commandWord_eq_of_fields hopc (operandB_some hr)
  iterate 4 exact commandWord_eq_of_fields hopc (operandN_some hr).symm
  · exact commandWord_eq_of_fields hopc (operandW16_some hr)

/-- Settles O2: each form reads back the value its row extended. -/
theorem decodeOfEncodeIsTheCommand : Obligations.DecodeOfEncodeIsTheCommand := decode_encode

/-- Settles O3: a legal word's fields are those of its command's word. -/
theorem encodeOfDecodeIsTheWord : Obligations.EncodeOfDecodeIsTheWord := fun _ _ => encode_of_decode

/-- Settles O1: sixteen fixed words, run through the decoder. -/
theorem decodeSpecExampleWords : Obligations.DecodeSpecExampleWords := by
  unfold Obligations.DecodeSpecExampleWords
  decide

/-! ### The opcode map -/

/-- Two words are equal when their fields are. -/
theorem word_eq_iff_fields {v w : Word} :
    v = w ↔ opcField v = opcField w ∧ operandField v = operandField w := by
  refine ⟨fun h => h ▸ ⟨rfl, rfl⟩, fun ⟨hopc, ho⟩ => ?_⟩
  rw [← commandWord_fields v, hopc, ho, commandWord_fields]

@[simp] theorem opcField_and (v w : Word) : opcField (v &&& w) = opcField v &&& opcField w :=
  BitVec.extractLsb'_and

@[simp] theorem operandField_and (v w : Word) :
    operandField (v &&& w) = operandField v &&& operandField w := BitVec.extractLsb'_and

/-- Every mask of R92 covers the OPC, and every match word has operand 0. -/
theorem opcodeRows_fields : ∀ r ∈ opcodeRows,
    opcField r.mask = 0xFF#8 ∧ operandField r.pattern = 0#24 := by decide

/-- The OPC alone tells the rows of R92 apart. -/
theorem opcodeRows_eq_of_opc : ∀ r ∈ opcodeRows, ∀ r' ∈ opcodeRows,
    opcField r.pattern = opcField r'.pattern → r = r' := by decide

/-- A word matches a row when it has the row's OPC and no must-be-zero bit is set. -/
theorem matchesRow_iff {r : OpcodeRow} (hr : r ∈ opcodeRows) (w : Word) :
    w &&& r.mask = r.pattern ↔
      opcField w = opcField r.pattern ∧ operandField w &&& operandField r.mask = 0#24 := by
  obtain ⟨hmask, hpattern⟩ := opcodeRows_fields r hr
  rw [word_eq_iff_fields, opcField_and, operandField_and, hmask, hpattern,
    show (0xFF#8 : BitVec 8) = BitVec.allOnes 8 from rfl, BitVec.and_allOnes]

/-- R97's must-be-zero bits of a word are the operand under the row's mask. -/
theorem mbz_eq_zero_iff (w mask : Word) :
    w &&& mask &&& 0x00FFFFFF#32 = 0#32 ↔ operandField w &&& operandField mask = 0#24 := by
  rw [word_eq_iff_fields, opcField_and, operandField_and, operandField_and,
    show opcField 0x00FFFFFF#32 = 0#8 from rfl, BitVec.and_zero,
    show operandField 0x00FFFFFF#32 = BitVec.allOnes 24 from rfl, BitVec.and_allOnes]
  exact and_iff_right rfl

/-- An operand whose bits from n on are masked out is its low n bits, extended. -/
theorem setWidth_low_of_and_eq_zero (n : Nat) {o k : BitVec 24}
    (hk : ∀ j < 24, n ≤ j → k.getLsbD j = true) (h : o &&& k = 0#24) :
    (o.extractLsb' 0 n).setWidth 24 = o := by
  apply BitVec.eq_of_getLsbD_eq
  intro j hj
  have hbit := congrArg (BitVec.getLsbD · j) h
  simp only [BitVec.getLsbD_and, BitVec.getLsbD_zero] at hbit
  simp only [BitVec.getLsbD_setWidth, BitVec.getLsbD_extractLsb']
  by_cases hn : j < n
  · simp [hn, hj]
  · rw [hk j hj (Nat.le_of_not_lt hn), Bool.and_true] at hbit
    simp [hn, hbit]

/-- The low bit of an operand with no other bit set is the whole operand. -/
theorem setWidth_bit_of_and_eq_zero {o : BitVec 24} (h : o &&& 0xFFFFFE#24 = 0#24) :
    (BitVec.ofBool (o.getLsbD 0)).setWidth 24 = o := by
  have hbit : BitVec.ofBool (o.getLsbD 0) = o.extractLsb' 0 1 := by
    ext k hk; obtain rfl : k = 0 := by omega
    simp
  rw [hbit]
  exact setWidth_low_of_and_eq_zero 1 (by decide) h

/-- The word of a command matches the row of its mnemonic. -/
theorem encode_matches_row (i : Instr) : Laws.RowMatch.Statement i := by
  cases i with
  | cfgTrig p => exact Laws.RowMatch.cfgTrig p
  | cfgEcho p => exact Laws.RowMatch.cfgEcho p
  | cfgAux1 p => exact Laws.RowMatch.cfgAux1 p
  | cfgAux2 p => exact Laws.RowMatch.cfgAux2 p
  | cfgRange u => exact Laws.RowMatch.cfgRange u
  | cfgInterval u => exact Laws.RowMatch.cfgInterval u
  | cfgCallback b => exact Laws.RowMatch.cfgCallback b
  | setup => exact Laws.RowMatch.setup
  | sampleOnce => exact Laws.RowMatch.sampleOnce
  | advance => exact Laws.RowMatch.advance
  | getResult => exact Laws.RowMatch.getResult
  | popcnt16 v => exact Laws.RowMatch.popcnt16 v

/-- Every word of a row is the word of a command with the row's mnemonic. -/
theorem exists_encode_of_matches {r : OpcodeRow} (hr : r ∈ opcodeRows) {w : Word}
    (h : w &&& r.mask = r.pattern) : ∃ i, encode i = w ∧ i.toAsm.mnemonic = r.mnemonic := by
  obtain ⟨hopc, ho⟩ := (matchesRow_iff hr w).mp h
  simp only [opcodeRows, List.mem_cons, List.not_mem_nil, or_false] at hr
  have pin : operandField w &&& 0xFFFF00#24 = 0#24 →
      ((operandField w).extractLsb' 0 8).setWidth 24 = operandField w :=
    setWidth_low_of_and_eq_zero 8 (by decide)
  have noValue : operandField w &&& 0xFFFFFF#24 = 0#24 → 0#24 = operandField w := fun h => by
    rw [← h]; exact BitVec.and_allOnes
  rcases hr with rfl | rfl | rfl | rfl | rfl | rfl | rfl | rfl | rfl | rfl | rfl | rfl
  · exact ⟨.cfgTrig _, commandWord_eq_of_fields hopc (pin ho), rfl⟩
  · exact ⟨.cfgEcho _, commandWord_eq_of_fields hopc (pin ho), rfl⟩
  · exact ⟨.cfgAux1 _, commandWord_eq_of_fields hopc (pin ho), rfl⟩
  · exact ⟨.cfgAux2 _, commandWord_eq_of_fields hopc (pin ho), rfl⟩
  · exact ⟨.cfgRange _, commandWord_eq_of_fields hopc rfl, rfl⟩
  · exact ⟨.cfgInterval _, commandWord_eq_of_fields hopc rfl, rfl⟩
  · exact ⟨.cfgCallback _, commandWord_eq_of_fields hopc (setWidth_bit_of_and_eq_zero ho), rfl⟩
  · exact ⟨.setup, commandWord_eq_of_fields hopc (noValue ho), rfl⟩
  · exact ⟨.sampleOnce, commandWord_eq_of_fields hopc (noValue ho), rfl⟩
  · exact ⟨.advance, commandWord_eq_of_fields hopc (noValue ho), rfl⟩
  · exact ⟨.getResult, commandWord_eq_of_fields hopc (noValue ho), rfl⟩
  · exact ⟨.popcnt16 _,
      commandWord_eq_of_fields hopc (setWidth_low_of_and_eq_zero 16 (by decide) ho), rfl⟩

/-- A word matches one row of R92 at most. -/
theorem row_unique {r r' : OpcodeRow} (hr : r ∈ opcodeRows) (hr' : r' ∈ opcodeRows) {w : Word}
    (h : w &&& r.mask = r.pattern) (h' : w &&& r'.mask = r'.pattern) : r = r' :=
  opcodeRows_eq_of_opc r hr r' hr'
    (((matchesRow_iff hr w).mp h).1.symm.trans ((matchesRow_iff hr' w).mp h').1)

/-- A legal word matches the row of its command's mnemonic. -/
theorem matches_row_of_decode {w : Word} {i : Instr} (h : decode w = .ok i) :
    ∃ r ∈ opcodeRows, w &&& r.mask = r.pattern ∧ r.mnemonic = i.toAsm.mnemonic := by
  obtain ⟨r, hr, hm, hw⟩ := encode_matches_row i
  rw [encode_of_decode h] at hw
  exact ⟨r, hr, hw, hm⟩

/-- Settles O4: a legal word is its command's word, which matches the command's row; a word of a row
is the word of a command of the row, which decodes; and the OPC tells the rows apart. -/
theorem decoderFollowsOpcodeMap : Obligations.DecoderFollowsOpcodeMap := by
  refine ⟨fun w i => matches_row_of_decode, fun w r hr h => ?_,
    fun w r hr r' hr' => row_unique hr hr'⟩
  obtain ⟨i, rfl, hm⟩ := exists_encode_of_matches hr h
  exact ⟨i, decode_encode i, hm⟩

/-! ### Assembler lines -/

/-- A line of form N passes R98's check when it has no operand. -/
theorem wf_of_form_N {m : Mnemonic} {o : Option Nat} (hm : m.form = .N) :
    (AsmLine.mk m o).wf = true ↔ o = none := by
  cases o <;> simp [AsmLine.wf, hm]

/-- A line of another form passes it when it has an operand that fits. -/
theorem wf_of_form_value {m : Mnemonic} {o : Option Nat} (hm : m.form ≠ .N) :
    (AsmLine.mk m o).wf = true ↔ ∃ n, o = some n ∧ n < 2 ^ m.form.valueBits := by
  unfold AsmLine.wf
  cases hf : m.form with
  | N => exact absurd hf hm
  | P | U24 | B | W16 => cases o <;> simp

/-- A line that passes the check names a command with that very line. -/
theorem assemble_of_wf {l : AsmLine} (h : l.wf = true) :
    ∃ i, l.assemble = some i ∧ i.toAsm = l := by
  obtain ⟨m, o⟩ := l
  cases m with
  | SETUP | SAMPLE_ONCE | ADVANCE | GET_RESULT =>
    obtain rfl := (wf_of_form_N rfl).mp h
    exact ⟨_, if_pos h, rfl⟩
  | CFG_CALLBACK =>
    obtain ⟨n, rfl, hn⟩ := (wf_of_form_value (by decide)).mp h
    refine ⟨_, if_pos h, ?_⟩
    obtain rfl | rfl : n = 0 ∨ n = 1 := Nat.le_one_iff_eq_zero_or_eq_one.mp (Nat.le_of_lt_succ hn)
    · rfl
    · rfl
  | CFG_TRIG | CFG_ECHO | CFG_AUX1 | CFG_AUX2 | CFG_RANGE | CFG_INTERVAL | POPCNT16 =>
    obtain ⟨n, rfl, hn⟩ := (wf_of_form_value (by decide)).mp h
    exact ⟨_, if_pos h, congrArg (AsmLine.mk _ <| some ·) (Nat.mod_eq_of_lt hn)⟩

/-- Settles O5: the check decides between a command with the line's own operand and an error. -/
theorem assemblyNeverTruncates : Obligations.AssemblyNeverTruncates := by
  refine fun l => ⟨fun h => ?_, fun h => ?_⟩
  · obtain ⟨i, ha, hl⟩ := assemble_of_wf h
    exact ⟨i, ha, hl, decode_encode i⟩
  · simp [AsmLine.assemble, h]

/-- A command's own line assembles to it. -/
theorem assemble_toAsm (i : Instr) : i.toAsm.assemble = some i := by
  cases i with
  | setup | sampleOnce | advance | getResult => rfl
  | cfgCallback b => cases b <;> rfl
  | cfgTrig v | cfgEcho v | cfgAux1 v | cfgAux2 v | cfgRange v | cfgInterval v | popcnt16 v =>
    exact (if_pos (Laws.toNat_fits v)).trans (by simp [Instr.toAsm])

end Sys2Proof

namespace Sys2Proof.Machine

/-! ### Pseudo-instructions -/

/-- The access of a command's own line is the write of its word to CMD. -/
theorem stimulus_wr_toAsm (c : Config) (i : Instr) :
    (HostLine.wr i.toAsm).stimulus c = some (commandWrite c (encode i)) := by
  simp [HostLine.stimulus, assemble_toAsm]

/-- The accesses of WAIT_CYCLE's loop are its pass repeated. -/
theorem waitPasses_stimuli (c : Config) (k : Nat) :
    (waitPasses k).map (HostLine.stimulus c) = (List.replicate k (waitAccesses c)).flatten := by
  induction k with
  | zero => rfl
  | succ k ih =>
    have hpass : waitPass.map (HostLine.stimulus c) = waitAccesses c := rfl
    rw [waitPasses, List.map_append, hpass, ih, List.replicate_succ, List.flatten_cons]

/-- Settles O55: each line is the line of a command or a read of a register. -/
theorem pseudoInstructionsExpand : Obligations.PseudoInstructionsExpand := by
  refine fun c => ⟨fun t e a1 a2 => ?_, fun m k h => ?_, rfl, waitPasses_stimuli c, fun k => ?_⟩
  · have lines : (Pseudo.cfgPins t.toNat e.toNat a1.toNat a2.toNat).expand
        = [Instr.cfgTrig t, .cfgEcho e, .cfgAux1 a1, .cfgAux2 a2].map fun i => .wr i.toAsm := rfl
    simp only [lines, List.map_cons, List.map_nil, stimulus_wr_toAsm]
  · have line : (Pseudo.cfgRangeM m k).expand
        = [.wr (Instr.cfgRange (BitVec.ofNat 24 (m * 1000 + k))).toAsm] := by
      rw [Instr.toAsm, BitVec.toNat_ofNat, Nat.mod_eq_of_lt h, Pseudo.expand]
    rw [line, List.map_singleton, stimulus_wr_toAsm]
  · rw [Pseudo.expand, List.map_append, List.map_append, waitPasses_stimuli]
    rfl

/-! ### What execute answers -/

/-- Every command begins with the FAULTED check (R93). -/
theorem exec_faulted (i : Instr) {s : State} (h : s.faulted = true) :
    exec i s = .next (reject .faulted s) := by
  cases i with
  | setup => unfold exec execSetup; exact command_faulted _ h
  | advance => unfold exec execAdvance; exact command_faulted _ h
  | cfgTrig _ | cfgEcho _ | cfgAux1 _ | cfgAux2 _ | cfgRange _ | cfgInterval _ | cfgCallback _ |
    sampleOnce | getResult | popcnt16 _ => exact command_faulted _ h

/-- No command runs for a word that matches no row (R93, R97). -/
theorem execute_of_matchesNoRow {w : Word} (hw : matchesNoRow w) (s : State) :
    execute w s = illegalCommand s := by
  unfold execute
  cases hd : decode w with
  | ok i =>
    obtain ⟨r, hr, hm, -⟩ := matches_row_of_decode hd
    exact absurd hm (hw r hr)
  | error e => rfl

/-- A faulted PWS answers FAULTED whatever the word, legal or not (R255). -/
theorem execute_faulted (w : Word) {s : State} (h : s.faulted = true) :
    execute w s = .next (reject .faulted s) := by
  unfold execute
  cases decode w with
  | ok i => exact exec_faulted i h
  | error e => exact command_faulted _ h

/-- A PWS that is not faulted answers ILLEGAL to a word of no row and stays as it was (R97). -/
theorem execute_illegal {w : Word} {s : State} (h : s.faulted = false) (hw : matchesNoRow w) :
    execute w s = .next (reject .illegal s) := by
  rw [execute_of_matchesNoRow hw, illegalCommand, command_usable _ h]

/-- Settles O7: the FAULTED check of every arm, the words of no row, and the words of a row. -/
theorem executeChecksFaultThenLegality : Obligations.ExecuteChecksFaultThenLegality := by
  refine fun s w => ⟨execute_faulted w, execute_illegal, fun _ r hr h => ?_⟩
  obtain ⟨i, rfl, hm⟩ := exists_encode_of_matches hr h
  exact ⟨i, hm, rfl, execute_decoded (decode_encode i) s⟩

/-- Settles O8: a word fails every row by its OPC, or the row of its OPC by a must-be-zero bit. -/
theorem illegalWordOnlyAnswers : Obligations.IllegalWordOnlyAnswers := by
  refine ⟨fun w hopc r hr h => hopc r hr ((matchesRow_iff hr w).mp h).1,
    fun w r hr hopc hmbz r' hr' h => ?_, fun w hw => ?_, by decide, fun s w => execute_illegal⟩
  · obtain ⟨hopc', ho⟩ := (matchesRow_iff hr' w).mp h
    obtain rfl := opcodeRows_eq_of_opc r hr r' hr' (hopc.symm.trans hopc')
    exact hmbz ((mbz_eq_zero_iff w r.mask).mpr ho)
  · by_cases hopc : ∀ r ∈ opcodeRows, w.extractLsb' 24 8 ≠ r.pattern.extractLsb' 24 8
    · exact .inl hopc
    · push Not at hopc
      obtain ⟨r, hr, hopc⟩ := hopc
      exact .inr ⟨r, hr, hopc, fun hmbz =>
        hw r hr ((matchesRow_iff hr w).mpr ⟨hopc, (mbz_eq_zero_iff w r.mask).mp hmbz⟩)⟩

/-- R95's form of a response: OK without an error, or an error without data. -/
def Resp.WellFormed (r : Resp) : Prop :=
  (r.ok = true → r.err = .none) ∧ (r.ok = false → r.err ≠ .none ∧ r.data = 0#16)

theorem succeed_wellFormed (data : BitVec 16) (s : State) : (succeed data s).resp.WellFormed :=
  ⟨fun _ => rfl, nofun⟩

theorem reject_wellFormed {err : ErrCode} (h : err ≠ .none) (s : State) :
    (reject err s).resp.WellFormed := ⟨nofun, fun _ => ⟨h, rfl⟩⟩

/-- A command answers in R95's form when its body does. -/
theorem command_wellFormed {body : State → State} {s t : State} (hb : (body s).resp.WellFormed)
    (h : command body s = .next t) : t.resp.WellFormed := by
  rcases command_next h with ⟨-, rfl⟩ | ⟨-, rfl⟩
  · exact reject_wellFormed (by decide) s
  · exact hb

theorem whenIdle_wellFormed {body : State → State} {s : State} (hb : (body s).resp.WellFormed) :
    (whenIdle body s).resp.WellFormed := by
  rcases whenIdle_cases body s with ⟨-, e⟩ | ⟨-, e⟩ <;> rw [e]
  · exact hb
  · exact reject_wellFormed (by decide) s

theorem configure_wellFormed {write : State → State} {s t : State}
    (h : configure write s = .next t) : t.resp.WellFormed :=
  command_wellFormed (body := whenIdle fun s => succeed 0#16 (write s))
    (whenIdle_wellFormed (succeed_wellFormed _ _)) h

theorem setupBuffers_wellFormed (n : Nat) (s : State) : (setupBuffers n s).resp.WellFormed := by
  rcases setupBuffers_cases n s with ⟨-, -, e⟩ | ⟨-, -, e⟩ | ⟨-, -, e⟩ | ⟨-, -, e⟩ <;> rw [e]
  · exact succeed_wellFormed _ _
  · exact reject_wellFormed (by decide) _
  · exact reject_wellFormed (by decide) _
  · exact succeed_wellFormed _ _

theorem execSetup_wellFormed {s t : State} (h : execSetup s = .next t) : t.resp.WellFormed := by
  unfold execSetup at h
  refine command_wellFormed ?_ h
  split
  · exact whenIdle_wellFormed (setupBuffers_wellFormed _ s)
  · exact reject_wellFormed (by decide) s

theorem execAdvance_wellFormed {s t : State} (h : execAdvance s = .next t) : t.resp.WellFormed := by
  rcases execAdvance_next h with
    ⟨-, rfl⟩ | ⟨-, ⟨-, rfl⟩ | ⟨-, -, rfl⟩ | ⟨-, -, rfl⟩ | ⟨-, rfl⟩⟩
  · exact reject_wellFormed (by decide) _
  · exact succeed_wellFormed _ _
  · exact reject_wellFormed (by decide) _
  · exact succeed_wellFormed _ _
  · exact succeed_wellFormed _ _

/-- Every command answers in R95's form. -/
theorem exec_wellFormed {i : Instr} {s t : State} (h : exec i s = .next t) : t.resp.WellFormed := by
  cases i with
  | cfgTrig _ | cfgEcho _ | cfgAux1 _ | cfgAux2 _ | cfgRange _ | cfgInterval _ | cfgCallback _ =>
    exact configure_wellFormed h
  | sampleOnce => exact configure_wellFormed (write := setState .triggering) h
  | setup => exact execSetup_wellFormed h
  | advance => exact execAdvance_wellFormed h
  | getResult | popcnt16 _ => exact command_wellFormed (succeed_wellFormed _ s) h

/-- Every word written to CMD is answered in R95's form. -/
theorem execute_wellFormed {w : Word} {s t : State} (h : execute w s = .next t) :
    t.resp.WellFormed := by
  unfold execute at h
  cases hd : decode w <;> rw [hd] at h
  case ok i => exact exec_wellFormed h
  case error e => exact command_wellFormed (reject_wellFormed (by decide) s) h

/-- Settles O9: every arm answers, in R95's form and RESP's layout. -/
theorem everyCommandAnswers : Obligations.EveryCommandAnswers := by
  intro s w
  obtain ⟨t, ht⟩ := execute_answers w s
  obtain ⟨hok, herr⟩ := execute_wellFormed ht
  exact ⟨t, ht, hok, herr, respWord_layout t⟩

end Sys2Proof.Machine
end

section
/-!
SUPPORT. The family 41_configuration.md: what a configuration command answers in IDLE (R120 to R126).
-/

namespace Sys2Proof.Machine

/-- In IDLE a configuration command writes its field and answers OK. -/
theorem configure_idle (write : State → State) {s : State} (h : s.faulted = false)
    (hi : s.state = .idle) : configure write s = .next (succeed 0#16 (write s)) := by
  rw [configure, command_usable _ h, whenIdle_idle _ hi]

/-- Settles O11: each pin command is `configure` with the write of its field. -/
theorem pinCommandsWriteTheirField : Obligations.PinCommandsWriteTheirField := by
  intro s pin h hi
  exact ⟨configure_idle ({ · with pinTrig := pin }) h hi,
    configure_idle ({ · with pinEcho := pin }) h hi,
    configure_idle ({ · with pinAux1 := pin }) h hi,
    configure_idle ({ · with pinAux2 := pin }) h hi⟩

/-- Settles O12: each value command is `configure` with the write of its field. -/
theorem valueCommandsWriteTheirField : Obligations.ValueCommandsWriteTheirField := by
  intro s u en h hi
  exact ⟨configure_idle ({ · with rangeMm := u }) h hi,
    configure_idle ({ · with intervalMs := u }) h hi,
    configure_idle ({ · with cbEn := en }) h hi⟩

end Sys2Proof.Machine
end

section
/-!
SUPPORT. The family 42_setup_and_trigger.md: SETUP's pin check and buffer length, what SETUP answers in each
of its cases and leaves unchanged (R140 to R145), and SAMPLE_ONCE (R146).
-/

namespace Sys2Proof.Machine

/-! ### The pin check and the buffer length -/

/-- The pin check, as validity of each identifier and distinctness (R141). -/
theorem pinsOk_iff (c : Config) (t e a1 a2 : Pin) :
    pinsOk c t e a1 a2 = true ↔
      (∀ p ∈ [t, e, a1, a2], p.toNat < c.numPins) ∧ [t, e, a1, a2].Nodup := by
  simp [pinsOk, and_assoc]

/-- Under R8 a valid identifier is never 0xFF, "unset" (R39, R141). -/
theorem valid_pin_ne_unset {c : Config} (hc : c.wf = true) {p : Pin} (hp : p.toNat < c.numPins) :
    p ≠ 0xFF#8 := by
  rintro rfl
  obtain ⟨-, -, -, hpins, -⟩ := (config_wf_iff c).mp hc
  exact absurd hp (Nat.not_lt.mpr hpins)

/-- Settles O15: the check's conjunction, and NUM_PINS is at most 255. -/
theorem pinsOkMeansValidAndDistinct : Obligations.PinsOkMeansValidAndDistinct := by
  intro c t e a1 a2 hc
  refine ⟨pinsOk_iff c t e a1 a2, fun h p hp => ?_⟩
  exact valid_pin_ne_unset hc (((pinsOk_iff c t e a1 a2).mp h).1 p hp)

/-- With the source's constants 48 / 1000 is 6 / 125 (R142). -/
theorem numSamplesFor_source (mm : Nat) :
    numSamplesFor Config.source mm = 152 + mm * 6 / 125 * 4 := by
  have units : mm * 48 / 1000 = mm * 6 / 125 := by omega
  simp [numSamplesFor, Config.source, units]

/-- Settles O16: the range units are a Nat quotient, and the source's bound is that of the largest
range. -/
theorem bufferLengthFormula : Obligations.BufferLengthFormula := by
  refine ⟨fun c mm => ⟨mm * c.samplesPerMeter / 1000, rfl, Nat.mul_div_le _ _, ?_⟩,
    fun c mm hc => ⟨numSamplesFor_mod hc mm, le_numSamplesFor c mm⟩,
    fun mm => ⟨numSamplesFor_source mm.toNat, ?_⟩, rfl⟩
  · exact Nat.lt_mul_div_succ _ (by decide)
  · rw [numSamplesFor_source]
    have := mm.isLt
    omega

/-! ### One equation per case -/

section
variable {s : State}

/-- Invalid pins are refused in any state (R140). -/
theorem execSetup_config (h : s.faulted = false) (hp : setupPinsOk s = false) :
    exec .setup s = .next (reject .config s) := by
  simp [exec, execSetup_usable h, hp]

/-- With valid pins SETUP needs IDLE (R140, R252). -/
theorem execSetup_busy (h : s.faulted = false) (hp : setupPinsOk s = true) (hs : s.state ≠ .idle) :
    exec .setup s = .next (reject .busy s) := by
  simp [exec, execSetup_usable h, hp, whenIdle_busy _ hs]

/-- With valid pins in IDLE the buffers decide (R140). -/
theorem execSetup_idle (h : s.faulted = false) (hp : setupPinsOk s = true) (hs : s.state = .idle) :
    exec .setup s = .next (setupBuffers (setupLength s) s) := by
  simp [exec, execSetup_usable h, hp, whenIdle_idle _ hs]

/-- Buffers of the length asked for are kept (R140, R284). -/
theorem setupBuffers_same {n : Nat} (ha : s.alloc = true) (hn : n = s.numSamples.toNat) :
    setupBuffers n s = setupDone s := by simp [setupBuffers, ha, hn]

/-- Buffers of another length are a fault (R142). -/
theorem setupBuffers_resize {n : Nat} (ha : s.alloc = true) (hn : n ≠ s.numSamples.toNat) :
    setupBuffers n s = faultCommand .resize s := by simp [setupBuffers, ha, hn]

/-- A length above the capacity is refused (R143). -/
theorem setupBuffers_full {n : Nat} (ha : s.alloc = false) (hn : s.config.bufCapacityWords < n) :
    setupBuffers n s = reject .alloc s := by simp [setupBuffers, ha, hn]

/-- Without buffers a length within the capacity is allocated (R143). -/
theorem setupBuffers_fresh {n : Nat} (ha : s.alloc = false) (hn : n ≤ s.config.bufCapacityWords) :
    setupBuffers n s = setupDone (allocate n s) := by simp [setupBuffers, ha, Nat.not_lt.mpr hn]

/-- On valid pins R144's actions reach the port: four modes, and the trigger's level. -/
theorem setupDone_validPins (hp : setupPinsOk s = true) :
    setupDone s =
      { s with
        out := s.out ++ setupActions s
        pinMode := setupModes s
        pinLevel := s.pinLevel.set s.pinTrig.toNat .low
        resp := answered 0#16 } := by
  obtain ⟨ht, he, ha1, ha2, -⟩ := pinsOk_parts hp
  simp [setupDone, succeed, respond, configurePins, emit, modesAfter, levelsAfter, PinDir.mode,
    PinLevel.ofBool, ht, he, ha1, ha2]

/-- Outside IDLE a configuration command is refused (41_configuration.md). -/
theorem configure_busy (write : State → State) (h : s.faulted = false) (hs : s.state ≠ .idle) :
    configure write s = .next (reject .busy s) := by
  rw [configure, command_usable _ h, whenIdle_busy _ hs]

end

/-! ### The statements about SETUP and SAMPLE_ONCE -/

/-- Settles O18: the buffers are allocated, and the pins then configured are the same valid ones. -/
theorem setupAllocatesAndConfigures : Obligations.SetupAllocatesAndConfigures := by
  intro s h hp hs ha hn
  have hp' : setupPinsOk (allocate (setupLength s) s) = true := hp
  rw [execSetup_idle h hp hs, setupBuffers_fresh ha hn, setupDone_validPins hp']
  rfl

/-- Settles O19: with the same length only the pins are configured. -/
theorem setupAgainKeepsTheBuffers : Obligations.SetupAgainKeepsTheBuffers := by
  intro s h hp hs ha hn
  rw [execSetup_idle h hp hs, setupBuffers_same ha hn, setupDone_validPins hp]

/-- The registers of a cycle: STATE, BUFREQ, START_MS, PERIPH and the RESULT registers agree (R145). -/
def State.SameCycle (s t : State) : Prop :=
  t.state = s.state ∧ t.bufreq = s.bufreq ∧ t.startMs = s.startMs ∧ t.periph = s.periph
    ∧ t.resultStatus = s.resultStatus ∧ t.resultCause = s.resultCause
    ∧ t.resultSeq = s.resultSeq ∧ t.resultCount = s.resultCount ∧ t.resultDistUm = s.resultDistUm

/-- Whatever SETUP does with the buffers, it leaves the cycle's registers alone. -/
theorem setupBuffers_sameCycle (n : Nat) (s : State) : s.SameCycle (setupBuffers n s) := by
  rcases setupBuffers_cases n s with ⟨-, -, e⟩ | ⟨-, -, e⟩ | ⟨-, -, e⟩ | ⟨-, -, e⟩ <;> rw [e]
  · simp [State.SameCycle, setupDone]
  · simp [State.SameCycle, faultCommand]
  · simp [State.SameCycle]
  · simp [State.SameCycle, setupDone]

/-- SETUP leaves the cycle's registers alone in every state. -/
theorem execSetup_sameCycle {s t : State} (h : execSetup s = .next t) : s.SameCycle t := by
  rcases execSetup_next h with ⟨e, rfl⟩ | ⟨-, -, -, rfl⟩
  · simp [State.SameCycle]
  · exact setupBuffers_sameCycle _ s

/-- Settles O20: SETUP's three refusals, and the frame of every answer. -/
theorem setupNeverTouchesTheCycle : Obligations.SetupNeverTouchesTheCycle := by
  refine fun s => ⟨exec_faulted .setup, fun h hs hp => execSetup_busy h hp hs, execSetup_config, ?_⟩
  obtain ⟨t, ht⟩ := exec_answers .setup s
  exact ⟨t, ht, execSetup_sameCycle ht⟩

/-- Settles O13: seven of the commands are `configure`, and SAMPLE_ONCE has the same check. -/
theorem idleOnlyCommandsAnswerBusy : Obligations.IdleOnlyCommandsAnswerBusy := by
  intro s pin u en h hs
  have busy (write : State → State) := configure_busy write h hs
  simp only [List.forall_mem_cons]
  exact ⟨busy _, busy _, busy _, busy _, busy _, busy _, busy _, execSampleOnce_busy h hs, nofun⟩

/-- Settles O17: the pin check and IDLE come first, then the buffers' own two failures. -/
theorem setupFailuresInOrder : Obligations.SetupFailuresInOrder := by
  refine fun s h => ⟨execSetup_config h, execSetup_busy h, fun hp hs ha hn => ?_,
    fun hp hs ha hn => ?_⟩
  · rw [execSetup_idle h hp hs, setupBuffers_resize ha hn]
    rfl
  · rw [execSetup_idle h hp hs, setupBuffers_full ha hn]
    rfl

/-- Settles O21: in IDLE the command's body runs, and it reads nothing else. -/
theorem sampleOnceStartsTriggering : Obligations.SampleOnceStartsTriggering :=
  fun _ h hs => execSampleOnce_idle h hs

end Sys2Proof.Machine
end

section
/-!
SUPPORT. The family 43_advance.md: what ADVANCE answers in each state (R160 to R175), the rows of the state
table (R176), and the one result a cycle records (R177, R210, R212).
-/

namespace Sys2Proof.Machine

/-! ### Equations for the operations a handler is made of -/

/-- `record` as one update: the RESULT registers, and the event where CB_EN = 1 (R210, R212). -/
theorem record_eq (st : ResultStatus) (c : Cause) (n d : Word) (s : State) :
    record st c n d s =
      { s with
        resultStatus := st
        resultCause := c
        resultSeq := s.resultSeq + 1#16
        resultCount := n
        resultDistUm := d
        out := s.out ++ eventIf s.cbEn st n d } := by
  apply State.ext <;> simp

/-- Half the words are the transfer units (R65, R167). -/
theorem udiv_two_eq_ofNat (w : Word) : w / 2#32 = BitVec.ofNat 32 (w.toNat / 2) := by
  have hw := w.isLt
  exact BitVec.eq_of_toNat_eq (Nat.mod_eq_of_lt (by omega)).symm

/-- A started cycle as one update (R165 to R167). -/
theorem startedCycle_eq (s : State) :
    startedCycle s =
      { s with
        out := s.out ++ [.pInit s.config.pcfg s.pinTrig s.pinEcho s.pinAux1 s.pinAux2,
          .pStart (BitVec.ofNat 32 (s.numSamples.toNat / 2))]
        bufreq := 0#32
        rx := Memory.zeroed
        tx := Memory.zeroed.writeIn s.numSamples.toNat 0 s.config.triggerWord
        periph := .init } := by
  apply State.ext <;> simp [startedCycle, initAction, startAction, udiv_two_eq_ofNat]

/-- The SAMPLING exit as one update (R172, R263). -/
theorem samplingExit_eq (s : State) :
    samplingExit s =
      { s with
        out := s.out ++ [.pUninit, .gpioWrite s.pinTrig false]
        pinLevel := trigLowLevels s
        periph := .uninit } := by
  apply State.ext <;> simp [levelsAfter, PinLevel.ofBool]

@[simp] theorem readByte_zeroed (a : Nat) : Memory.zeroed.readByte a = 0#8 := rfl

/-- TX is the trigger word and zeros (R166). -/
theorem readSample_triggerBuffer {n i : Nat} (w : Sample) (h : i < n) :
    (Memory.zeroed.writeIn n 0 w).readSample i = if i = 0 then w else 0#16 := by
  rw [writeIn_inside _ _ (Nat.zero_lt_of_lt h)]
  split
  case isTrue hi => rw [hi, readSample_writeSample_same _ _ zeroed_wf]
  case isFalse hi => rw [readSample_writeSample_ne _ _ (Ne.symm hi), readSample_zeroed]

/-! ### The handlers' conditions -/

/-- The periodic trigger's condition (R161). -/
theorem intervalDue_iff (now : Word) (s : State) :
    intervalDue now s = true ↔
      s.intervalMs ≠ 0#24 ∧ s.intervalMs.toNat ≤ msSinceStart now s := by
  rw [intervalDue, Bool.and_eq_true, bne_iff_ne, decide_eq_true_iff, elapsed_toNat]

/-- The completion condition (R170). -/
theorem transferComplete_iff (s : State) :
    transferComplete s = true ↔ s.config.bufsForComplete ≤ s.bufreq.toNat := decide_eq_true_iff

/-- The timeout's condition (R170, R173). -/
theorem timedOut_iff (now : Word) (s : State) :
    timedOut now s = true ↔ s.config.samplingTimeoutMs ≤ msSinceStart now s := by
  rw [timedOut, decide_eq_true_iff, elapsed_toNat]

/-! ### ADVANCE in IDLE -/

/-- Settles O22: the handler's condition is R161's. -/
theorem advanceInIdle : Obligations.AdvanceInIdle := by
  intro s h hs
  have answer := execAdvance_idle h hs
  have due := intervalDue_iff s.draws.nowMs s
  refine ⟨fun hiv hel => answer.trans ?_, fun hno => answer.trans ?_⟩
  · have hdue : intervalDue s.draws.nowMs (redraw s) = true := due.mpr ⟨hiv, hel⟩
    rw [idleHandler, if_pos hdue]
    rfl
  · have hdue : ¬ intervalDue s.draws.nowMs (redraw s) = true := fun hd => by
      obtain ⟨hiv, hel⟩ := due.mp hd
      exact hno.elim hiv (Nat.not_lt.mpr hel)
    rw [idleHandler, if_neg hdue, answerState, redraw_state, hs]
    rfl

/-! ### ADVANCE in TRIGGERING -/

/-- Settles O23: F_NOBUF and the FAULTED answer. -/
theorem advanceWithoutBuffersFaults : Obligations.AdvanceWithoutBuffersFaults :=
  fun _ h hs ha => execAdvance_nobuf h hs ha

section
variable {d : Draws} {s : State}

theorem triggeringHandler_initFail (hi : d.initOk = false) :
    triggeringHandler d s = triggerFailed .initFail (emit (initAction s) s) := by
  simp [triggeringHandler, hi]

theorem triggeringHandler_startFail (hi : d.initOk = true) (hst : d.startOk = false) :
    triggeringHandler d s = triggerFailed .startFail (startedCycle s) := by
  simp [triggeringHandler, startedCycle, hi, hst]

theorem triggeringHandler_started (hi : d.initOk = true) (hst : d.startOk = true) :
    triggeringHandler d s = enterSampling d.nowMs (startedCycle s) := by
  simp [triggeringHandler, startedCycle, hi, hst]

end

/-- Settles O24: P_INIT drives no pin, and `record` is the rest. -/
theorem triggeringInitFailure : Obligations.TriggeringInitFailure := by
  intro s h hs ha hi
  refine (execAdvance_triggering h hs ha).trans ?_
  rw [triggeringHandler_initFail hi, triggerFailed, record_eq]
  rfl

/-- Settles O25: the started cycle, and the record of its failure. -/
theorem triggeringStartFailure : Obligations.TriggeringStartFailure := by
  intro s h hs ha hi hst
  refine ⟨_, execAdvance_triggering h hs ha, ?_⟩
  rw [triggeringHandler_startFail hi hst, triggerFailed, record_eq, startedCycle_eq]
  exact ⟨rfl, readByte_zeroed, fun i hn => readSample_triggerBuffer _ hn⟩

/-- Settles O26: the started cycle enters SAMPLING. -/
theorem triggeringStartsTheCycle : Obligations.TriggeringStartsTheCycle := by
  intro s h hs ha hi hst
  refine ⟨_, execAdvance_triggering h hs ha, ?_⟩
  rw [triggeringHandler_started hi hst, startedCycle_eq]
  exact ⟨rfl, readByte_zeroed, fun i hn => readSample_triggerBuffer _ hn⟩

/-! ### ADVANCE in SAMPLING -/

section
variable {now : Word} {s : State}

/-- Before completion and timeout the handler waits (R171). -/
theorem samplingHandler_waits (hb : s.bufreq.toNat < s.config.bufsForComplete)
    (ht : msSinceStart now s < s.config.samplingTimeoutMs) : samplingHandler now s = s := by
  rw [samplingHandler, if_neg fun h => Nat.not_le.mpr hb ((transferComplete_iff s).mp h),
    if_neg fun h => Nat.not_le.mpr ht ((timedOut_iff now s).mp h)]

/-- The timeout ends a transfer that is not complete (R173). -/
theorem samplingHandler_timeout (hb : s.bufreq.toNat < s.config.bufsForComplete)
    (ht : s.config.samplingTimeoutMs ≤ msSinceStart now s) :
    samplingHandler now s
      = setState .idle (record .error .timeout 0#32 0#32 (samplingExit s)) := by
  rw [samplingHandler, if_neg fun h => Nat.not_le.mpr hb ((transferComplete_iff s).mp h),
    if_pos ((timedOut_iff now s).mpr ht)]

/-- Completion succeeds, whatever the time (R174). -/
theorem samplingHandler_complete (hb : s.config.bufsForComplete ≤ s.bufreq.toNat) :
    samplingHandler now s = setState .idle (recordSuccess (samplingExit s)) := by
  rw [samplingHandler, if_pos ((transferComplete_iff s).mpr hb)]

end

/-- Settles O27: the handler changes nothing, and STATE answers 2. -/
theorem samplingWaits : Obligations.SamplingWaits := by
  intro s h hs hb ht
  refine (execAdvance_sampling h hs).trans ?_
  rw [samplingHandler_waits (s := redraw s) hb ht, answerState, redraw_state, hs]
  rfl

/-- Settles O28: the exit's two actions, and the record of the timeout. -/
theorem samplingTimesOut : Obligations.SamplingTimesOut := by
  intro s h hs hb ht
  refine (execAdvance_sampling h hs).trans ?_
  rw [samplingHandler_timeout (s := redraw s) hb ht, record_eq, samplingExit_eq]
  rfl

/-- The compute unit's sum is the list sum over RX (R193). -/
theorem echoSum_eq_setBitsOfRx (s : State) : echoSum s = setBitsOfRx s := sumBelow_eq_sum _ _

/-- The recorded count and distance are exact: 32 bits hold both (R8, R195). -/
theorem echoSum_exact {s : State} (h : s.Inv) :
    (BitVec.ofNat 32 (echoSum s)).toNat = echoSum s
      ∧ (BitVec.ofNat 32 (distanceUm s.config (echoSum s))).toNat
        = echoSum s * s.config.soundHalfSpeed := by
  have hc : s.config.wf = true := h.1
  have hN : echoSum s ≤ 16 * s.config.bufCapacityWords :=
    (echoSum_le s).trans (Nat.mul_le_mul_left _ (numSamples_le_capacity h))
  have hcap : 16 * s.config.bufCapacityWords < 2 ^ 32 := by
    obtain ⟨-, -, -, -, -, -, -, -, -, hcap⟩ := wf_parts hc
    exact hcap
  exact ⟨Nat.mod_eq_of_lt (hN.trans_lt hcap), Nat.mod_eq_of_lt (distance_lt hc hN)⟩

/-- Settles O29: the exit, and the record of a sum that 32 bits hold. -/
theorem samplingSucceeds : Obligations.SamplingSucceeds := by
  intro s hinv h hs hb
  obtain ⟨hcount, hdist⟩ := echoSum_exact hinv
  have hsum := echoSum_eq_setBitsOfRx s
  have answer := execAdvance_sampling h hs
  rw [samplingHandler_complete (s := redraw s) hb, recordSuccess, record_eq, samplingExit_eq]
    at answer
  refine ⟨_, answer, rfl, ?_, ?_, ?_⟩
  · exact hcount.trans hsum
  · rw [← hsum]
    exact hdist
  · rw [← hsum]
    exact echoSum_le s

/-! ### The answer and the state table -/

@[simp] theorem idleHandler_faulted (now : Word) (s : State) :
    (idleHandler now s).faulted = s.faulted := by
  rcases idleHandler_cases now s with ⟨-, e⟩ | ⟨-, e⟩
  · rw [e]; rfl
  · rw [e]

@[simp] theorem triggeringHandler_faulted (d : Draws) (s : State) :
    (triggeringHandler d s).faulted = s.faulted := by
  rcases triggeringHandler_cases d s with ⟨-, e⟩ | ⟨-, -, e⟩ | ⟨-, -, e⟩ <;>
    simp [e, State.faulted, triggerFailed, startedCycle]

@[simp] theorem samplingHandler_faulted (now : Word) (s : State) :
    (samplingHandler now s).faulted = s.faulted := by
  rcases samplingHandler_cases now s with ⟨-, e⟩ | ⟨-, -, e⟩ | ⟨-, -, e⟩ <;>
    simp [e, State.faulted, recordSuccess]

/-- Without the fault of R163 ADVANCE answers for the state its handler leaves (R175). -/
theorem execAdvance_answersState {s : State} (h : s.faulted = false)
    (ha : s.state = .triggering → s.alloc = true) :
    ∃ u, execAdvance s = .next (answerState u) ∧ u.faulted = false := by
  cases hs : s.state with
  | idle => exact ⟨_, execAdvance_idle h hs, (idleHandler_faulted _ (redraw s)).trans h⟩
  | triggering =>
    exact ⟨_, execAdvance_triggering h hs (ha hs), (triggeringHandler_faulted _ (redraw s)).trans h⟩
  | sampling =>
    exact ⟨_, execAdvance_sampling h hs, (samplingHandler_faulted _ (redraw s)).trans h⟩

/-- Settles O30: STATE's code, extended, is R175's DATA. -/
theorem advanceAnswersTheNewState : Obligations.AdvanceAnswersTheNewState := by
  intro s h ha
  obtain ⟨u, hx, hu⟩ := execAdvance_answersState h ha
  refine ⟨answerState u, hx, hu, ?_⟩
  rw [answerState, succeed_resp, succeed_state]
  cases u.state <;> rfl

@[simp] theorem setupBuffers_state (n : Nat) (s : State) : (setupBuffers n s).state = s.state :=
  (setupBuffers_sameCycle n s).1

/-- The IDLE handler's move, and its condition (R161). -/
theorem idleHandler_state (now : Word) (s : State) :
    (idleHandler now s).state = s.state
      ∨ (idleHandler now s).state = .triggering
        ∧ s.intervalMs ≠ 0#24 ∧ s.intervalMs.toNat ≤ msSinceStart now s := by
  rcases idleHandler_cases now s with ⟨hdue, e⟩ | ⟨-, e⟩ <;> rw [e]
  · exact .inr ⟨rfl, (intervalDue_iff now s).mp hdue⟩
  · exact .inl rfl

/-- The TRIGGERING handler's two moves, and the draws that choose (R165, R168, R169). -/
theorem triggeringHandler_state (d : Draws) (s : State) :
    (triggeringHandler d s).state = .idle ∧ (d.initOk = false ∨ d.startOk = false)
      ∨ (triggeringHandler d s).state = .sampling ∧ d.initOk = true ∧ d.startOk = true := by
  rcases triggeringHandler_cases d s with ⟨hi, e⟩ | ⟨-, hst, e⟩ | ⟨hi, hst, e⟩ <;> rw [e]
  · exact .inl ⟨rfl, .inl hi⟩
  · exact .inl ⟨rfl, .inr hst⟩
  · exact .inr ⟨rfl, hi, hst⟩

/-- The SAMPLING handler's move, and its two conditions (R172 to R174). -/
theorem samplingHandler_state (now : Word) (s : State) :
    (samplingHandler now s).state = s.state
      ∨ (samplingHandler now s).state = .idle
        ∧ (s.config.bufsForComplete ≤ s.bufreq.toNat
          ∨ s.config.samplingTimeoutMs ≤ msSinceStart now s) := by
  rcases samplingHandler_cases now s with ⟨hb, e⟩ | ⟨-, ht, e⟩ | ⟨-, -, e⟩ <;> rw [e]
  · exact .inr ⟨rfl, .inl ((transferComplete_iff s).mp hb)⟩
  · exact .inr ⟨rfl, .inr ((timedOut_iff now s).mp ht)⟩
  · exact .inl rfl

/-- ADVANCE's rows of R176: the handler that runs moves STATE on its own conditions. -/
theorem execAdvance_state {s t : State} (h : execAdvance s = .next t) (hne : t.state ≠ s.state) :
    s.state = .idle ∧ t.state = .triggering ∧ s.intervalMs ≠ 0#24
        ∧ s.intervalMs.toNat ≤ msSinceStart s.draws.nowMs s
      ∨ s.state = .triggering ∧ t.state = .idle ∧ s.alloc = true
        ∧ (s.draws.initOk = false ∨ s.draws.startOk = false)
      ∨ s.state = .triggering ∧ t.state = .sampling ∧ s.alloc = true
        ∧ s.draws.initOk = true ∧ s.draws.startOk = true
      ∨ s.state = .sampling ∧ t.state = .idle
        ∧ (s.config.bufsForComplete ≤ s.bufreq.toNat
          ∨ s.config.samplingTimeoutMs ≤ msSinceStart s.draws.nowMs s) := by
  rcases execAdvance_next h with
    ⟨-, rfl⟩ | ⟨-, ⟨hs, rfl⟩ | ⟨-, -, rfl⟩ | ⟨hs, ha, rfl⟩ | ⟨hs, rfl⟩⟩
  · exact absurd rfl hne
  · obtain ⟨ht, hcond⟩ := (idleHandler_state s.draws.nowMs (redraw s)).resolve_left hne
    exact .inl ⟨hs, ht, hcond⟩
  · exact absurd rfl hne
  · rcases triggeringHandler_state s.draws (redraw s) with ⟨ht, hcond⟩ | ⟨ht, hcond⟩
    · exact .inr (.inl ⟨hs, ht, ha, hcond⟩)
    · exact .inr (.inr (.inl ⟨hs, ht, ha, hcond⟩))
  · obtain ⟨ht, hcond⟩ := (samplingHandler_state s.draws.nowMs (redraw s)).resolve_left hne
    exact .inr (.inr (.inr ⟨hs, ht, hcond⟩))

/-- Settles O31: SAMPLE_ONCE's row, and ADVANCE's. -/
theorem stateChangesFollowTheTable : Obligations.StateChangesFollowTheTable := by
  intro i s t h hne
  rcases exec_next h with ⟨e, rfl⟩ | ⟨hf, ⟨-, _, _, _, _, _, _, _, rfl⟩ | ⟨-, -, -, rfl⟩ |
    ⟨hi, hs, rfl⟩ | ⟨hi, ha⟩ | ⟨d, rfl⟩⟩
  · exact absurd rfl hne
  · exact absurd rfl hne
  · exact absurd (setupBuffers_state _ s) hne
  · exact ⟨hf, .inl ⟨hs, rfl, .inl hi⟩⟩
  · refine ⟨hf, ?_⟩
    rcases execAdvance_state ha hne with ⟨hs, ht, hcond⟩ | ⟨hs, ht, hcond⟩ | ⟨hs, ht, hcond⟩ |
      ⟨hs, ht, hcond⟩
    · exact .inl ⟨hs, ht, .inr ⟨hi, hcond⟩⟩
    · exact .inr (.inl ⟨hs, ht, hi, hcond⟩)
    · exact .inr (.inr (.inl ⟨hs, ht, hi, hcond⟩))
    · exact .inr (.inr (.inr ⟨hs, ht, hi, hcond⟩))
  · exact absurd rfl hne

/-! ### One result a cycle -/

/-- From s to t nothing is recorded: the RESULT registers stay and OUT gains no result event. -/
def State.KeepsResult (s t : State) : Prop :=
  t.resultSeq = s.resultSeq ∧ t.resultStatus = s.resultStatus ∧ t.resultCause = s.resultCause
    ∧ t.resultCount = s.resultCount ∧ t.resultDistUm = s.resultDistUm
    ∧ ∃ acts, t.out = s.out ++ acts ∧ ∀ st n d, Action.resultEvent st n d ∉ acts

/-- From s to t one result is recorded, and announced last where CB_EN = 1 (R210, R212). -/
def State.RecordsResult (s t : State) : Prop :=
  t.resultSeq = s.resultSeq + 1#16 ∧ (t.resultStatus = .success ∨ t.resultStatus = .error)
    ∧ ∃ acts, t.out = s.out ++ acts ++ eventIf s.cbEn t.resultStatus t.resultCount t.resultDistUm
      ∧ ∀ st n d, Action.resultEvent st n d ∉ acts

/-- From s to t a result is recorded exactly if a cycle returns to IDLE (R177). -/
def State.RecordsOnReturn (s t : State) : Prop :=
  (s.state = .idle ∨ t.state ≠ .idle) ∧ s.KeepsResult t
    ∨ s.state ≠ .idle ∧ t.state = .idle ∧ s.RecordsResult t

section
variable {s t u : State}

/-- `record` after a part of the step that recorded nothing and kept CB_EN. -/
theorem recordsResult_record {st : ResultStatus} {c : Cause} {n d : Word} (h : s.KeepsResult u)
    (hcb : u.cbEn = s.cbEn) (hst : st = .success ∨ st = .error) :
    s.RecordsResult (record st c n d u) := by
  obtain ⟨hseq, -, -, -, -, acts, hout, hacts⟩ := h
  exact ⟨by simp [hseq], by simpa using hst, acts, by simp [hout, hcb], hacts⟩

/-- Nothing is recorded and STATE stays: no return to IDLE. -/
theorem recordsOnReturn_of_keeps (hstate : t.state = s.state) (h : s.KeepsResult t) :
    s.RecordsOnReturn t := by
  refine .inl ⟨?_, h⟩
  rw [hstate]
  exact em _

end

@[simp] theorem keepsResult_self (s : State) : s.KeepsResult s := by simp [State.KeepsResult]

/-- Starting a cycle emits P_INIT and P_START only. -/
theorem startedCycle_keepsResult (s : State) : s.KeepsResult (startedCycle s) := by
  simp [State.KeepsResult, startedCycle, initAction, startAction]

/-- The SAMPLING exit emits P_UNINIT and a pin's level only. -/
theorem samplingExit_keepsResult (s : State) : s.KeepsResult (samplingExit s) := by
  simp [State.KeepsResult]

/-- SETUP emits R144's pin actions only. -/
theorem setupBuffers_keepsResult (n : Nat) (s : State) : s.KeepsResult (setupBuffers n s) := by
  rcases setupBuffers_cases n s with ⟨-, -, e⟩ | ⟨-, -, e⟩ | ⟨-, -, e⟩ | ⟨-, -, e⟩ <;> rw [e]
  · simp [State.KeepsResult, setupDone]
  · simp [State.KeepsResult, faultCommand]
  · simp [State.KeepsResult]
  · simp [State.KeepsResult, setupDone]

/-- The IDLE handler moves STATE only (R161). -/
theorem idleHandler_keepsResult (now : Word) (s : State) : s.KeepsResult (idleHandler now s) := by
  rcases idleHandler_cases now s with ⟨-, e⟩ | ⟨-, e⟩ <;> rw [e] <;> exact keepsResult_self s

/-- The TRIGGERING handler records its two failures, and nothing as it enters SAMPLING. -/
theorem triggeringHandler_recordsOnReturn (d : Draws) {s : State} (hs : s.state = .triggering) :
    s.RecordsOnReturn (triggeringHandler d s) := by
  have hne : s.state ≠ .idle := by simp [hs]
  rcases triggeringHandler_cases d s with ⟨-, e⟩ | ⟨-, -, e⟩ | ⟨-, -, e⟩ <;> rw [e]
  · have inited : s.KeepsResult (emit (initAction s) s) := by
      simp [State.KeepsResult, initAction]
    exact .inr ⟨hne, rfl, recordsResult_record inited rfl (.inr rfl)⟩
  · exact .inr ⟨hne, rfl, recordsResult_record (startedCycle_keepsResult s) rfl (.inr rfl)⟩
  · exact .inl ⟨.inr nofun, startedCycle_keepsResult s⟩

/-- The SAMPLING handler records success or the timeout, or waits. -/
theorem samplingHandler_recordsOnReturn (now : Word) {s : State} (hs : s.state = .sampling) :
    s.RecordsOnReturn (samplingHandler now s) := by
  have hne : s.state ≠ .idle := by simp [hs]
  have exited := samplingExit_keepsResult s
  rcases samplingHandler_cases now s with ⟨-, e⟩ | ⟨-, -, e⟩ | ⟨-, -, e⟩ <;> rw [e]
  · exact .inr ⟨hne, rfl, recordsResult_record exited rfl (.inl rfl)⟩
  · exact .inr ⟨hne, rfl, recordsResult_record exited rfl (.inr rfl)⟩
  · exact .inl ⟨.inr hne, keepsResult_self s⟩

theorem execAdvance_recordsOnReturn {s t : State} (h : execAdvance s = .next t) :
    s.RecordsOnReturn t := by
  rcases execAdvance_next h with
    ⟨-, rfl⟩ | ⟨-, ⟨hs, rfl⟩ | ⟨-, -, rfl⟩ | ⟨hs, -, rfl⟩ | ⟨hs, rfl⟩⟩
  · exact recordsOnReturn_of_keeps rfl (keepsResult_self s)
  · exact .inl ⟨.inl hs, idleHandler_keepsResult _ (redraw s)⟩
  · exact recordsOnReturn_of_keeps rfl (keepsResult_self s)
  · exact triggeringHandler_recordsOnReturn s.draws (s := redraw s) hs
  · exact samplingHandler_recordsOnReturn s.draws.nowMs (s := redraw s) hs

theorem exec_recordsOnReturn {i : Instr} {s t : State} (h : exec i s = .next t) :
    s.RecordsOnReturn t := by
  rcases exec_next h with ⟨e, rfl⟩ | ⟨-, ⟨-, _, _, _, _, _, _, _, rfl⟩ | ⟨-, hs, -, rfl⟩ |
    ⟨-, hs, rfl⟩ | ⟨-, ha⟩ | ⟨d, rfl⟩⟩
  · exact recordsOnReturn_of_keeps rfl (keepsResult_self s)
  · exact recordsOnReturn_of_keeps rfl (keepsResult_self s)
  · exact .inl ⟨.inl hs, setupBuffers_keepsResult _ s⟩
  · exact .inl ⟨.inl hs, keepsResult_self s⟩
  · exact execAdvance_recordsOnReturn ha
  · exact recordsOnReturn_of_keeps rfl (keepsResult_self s)

theorem execute_recordsOnReturn {w : Word} {s t : State} (h : execute w s = .next t) :
    s.RecordsOnReturn t := by
  rcases execute_next h with ⟨e, rfl⟩ | ⟨i, -, hi⟩
  · exact recordsOnReturn_of_keeps rfl (keepsResult_self s)
  · exact exec_recordsOnReturn hi

/-- A notification emits P_STOP at most. -/
theorem bufNeeded_recordsOnReturn (s : State) : s.RecordsOnReturn (bufNeeded s) := by
  rcases bufNeeded_cases s with ⟨-, e⟩ | ⟨-, -, e⟩ | ⟨-, -, -, e⟩ <;> rw [e]
  · exact recordsOnReturn_of_keeps rfl (keepsResult_self s)
  · exact recordsOnReturn_of_keeps rfl (keepsResult_self s)
  · exact recordsOnReturn_of_keeps rfl (by simp [State.KeepsResult])

theorem periphWrite_recordsOnReturn (write : Memory → Memory) (s : State) :
    s.RecordsOnReturn (periphWrite write s) := by
  rcases periphWrite_cases write s with ⟨-, e⟩ | ⟨-, e⟩ <;> rw [e] <;>
    exact recordsOnReturn_of_keeps rfl (keepsResult_self s)

/-- Every stimulus but a reset follows R177. -/
theorem applyStimulus_recordsOnReturn {e : Stimulus} {s t : State}
    (h : applyStimulus e s = .next t) (hr : ¬ (e = .reset ∨ e = .powerDown)) :
    s.RecordsOnReturn t := by
  rcases applyStimulus_next h with rfl | ⟨v, rfl⟩ | ⟨w, hw⟩ | ⟨-, rfl⟩ | ⟨i, v, -, rfl⟩ |
    ⟨u, v, -, rfl⟩ | ⟨d, rfl⟩ | ⟨hreset, -⟩
  · exact recordsOnReturn_of_keeps rfl (keepsResult_self t)
  · exact recordsOnReturn_of_keeps rfl (keepsResult_self s)
  · exact execute_recordsOnReturn hw
  · exact bufNeeded_recordsOnReturn s
  · exact periphWrite_recordsOnReturn _ s
  · exact periphWrite_recordsOnReturn _ s
  · exact recordsOnReturn_of_keeps rfl (keepsResult_self s)
  · exact absurd hreset hr

/-- Settles O32: the handlers record as they return to IDLE, and nothing else in a step records or
returns to IDLE. -/
theorem oneResultPerCycle : Obligations.OneResultPerCycle := by
  intro s t h hr
  obtain ⟨-, ag, ix, -, ha⟩ := step_next h
  have rule : s.RecordsOnReturn t := (applyStimulus_recordsOnReturn ha hr :)
  rcases rule with ⟨hstay, hkeeps⟩ | ⟨hs, ht, hrecords⟩
  · exact ⟨fun hs ht => absurd (hstay.resolve_left hs) (not_not.mpr ht), fun _ => hkeeps⟩
  · exact ⟨fun _ _ => hrecords, fun hstay => absurd ht (hstay.resolve_left hs)⟩

end Sys2Proof.Machine
end

section
/-!
SUPPORT. The family 44_compute.md: the bit counter and POPCNT16 (R190, R191), and the echo sum (R193).
-/

namespace Sys2Proof.Machine

/-! ### The bit counter -/

/-- A sum of bits counts the bits that are 1. -/
theorem sumBelow_toNat_eq_countP (p : Nat → Bool) (n : Nat) :
    sumBelow (fun k => (p k).toNat) n = (List.range n).countP p := by
  induction n with
  | zero => rfl
  | succ n ih => cases h : p n <;> simp [sumBelow, ih, List.range_succ, h]

theorem popcount16_eq_countP (w : Sample) :
    popcount16 w = (List.range 16).countP fun k => w.getLsbD k :=
  sumBelow_toNat_eq_countP _ 16

/-- The least count: no bit is 1. -/
theorem popcount16_eq_zero_iff (w : Sample) : popcount16 w = 0 ↔ w = 0x0000#16 := by
  refine ⟨fun h => ?_, fun h => h ▸ popcount16_zero⟩
  rw [popcount16_eq_countP, List.countP_eq_zero] at h
  refine BitVec.eq_of_getLsbD_eq fun k hk => ?_
  have unset : w.getLsbD k = false := by simpa using h k (List.mem_range.mpr hk)
  rw [unset, BitVec.getLsbD_zero]

/-- The largest count: every bit is 1. -/
theorem popcount16_eq_sixteen_iff (w : Sample) : popcount16 w = 16 ↔ w = 0xFFFF#16 := by
  refine ⟨fun h => ?_, fun h => h ▸ by decide⟩
  have all : (List.range 16).countP (fun k => w.getLsbD k) = (List.range 16).length :=
    (popcount16_eq_countP w).symm.trans h
  rw [List.countP_eq_length] at all
  change w = BitVec.allOnes 16
  refine BitVec.eq_of_getLsbD_eq fun k hk => ?_
  rw [all k (List.mem_range.mpr hk), BitVec.getLsbD_allOnes, decide_eq_true hk]

/-- Settles O35: the sum as a list sum, its bound, and the words that reach the bounds. -/
theorem popcountCountsSetBits : Obligations.PopcountCountsSetBits := fun w =>
  ⟨sumBelow_eq_sum _ 16, popcount16_le w, popcount16_eq_zero_iff w, popcount16_eq_sixteen_iff w,
    by decide⟩

/-- Settles O34: POPCNT16's body runs in every state and answers the sum, which is the count. -/
theorem popcnt16AnswersTheBitCount : Obligations.Popcnt16AnswersTheBitCount := by
  intro s v h
  rw [← popcount16_eq_countP]
  exact command_usable (succeed _) h

/-! ### The echo sum -/

/-- N sums the counts of RX's words, taken as a list. -/
theorem echoSum_eq_sum_words (s : State) :
    echoSum s = (((List.range s.numSamples.toNat).map s.rx.readSample).map popcount16).sum := by
  rw [echoSum_eq_setBitsOfRx, List.map_map]
  rfl

/-- Settles O36: a list's sum does not depend on its order. -/
theorem echoSumIgnoresWordOrder : Obligations.EchoSumIgnoresWordOrder := by
  intro s s' words
  refine ⟨?_, echoSum_eq_setBitsOfRx s, echoSum_le s⟩
  rw [echoSum_eq_sum_words, echoSum_eq_sum_words]
  exact (words.map popcount16).sum_eq

end Sys2Proof.Machine
end

section
/-!
SUPPORT. The family 45_results.md: GET_RESULT (R213), and the value and the four accesses of the source's
getLastResult() (R214).
-/

namespace Sys2Proof.Machine

/-! ### GET_RESULT -/

/-- GET_RESULT of a PWS that is not faulted answers the status's code and does nothing else (R213). -/
theorem exec_getResult_usable {s : State} (h : s.faulted = false) :
    exec .getResult s
      = .next { s with resp := answered (s.resultStatus.code.setWidth 16) } :=
  command_usable _ h

/-- Settles O33: the body runs in every state, and the status's code is R35's. -/
theorem getResultAnswersTheStatus : Obligations.GetResultAnswersTheStatus := by
  intro s h
  rw [exec_getResult_usable h]
  cases s.resultStatus <;> rfl

/-! ### The accesses of getLastResult() -/

/-- A run along a sequence of states each of which steps to the next. -/
theorem core_run_path {f : Nat → State} {k : Nat}
    (h : ∀ i < k, step (f i) = .next (f (i + 1))) :
    Sys2Proof.core.run k (f 0) = .next (f k) := by
  induction k generalizing f with
  | zero => rfl
  | succ k ih =>
    rw [core_run_succ (h 0 k.succ_pos)]
    exact ih (f := fun i => f (i + 1)) fun i hi => h (i + 1) (Nat.succ_lt_succ hi)

/-- What the host has read last after k of the four accesses. -/
def lastResultBusData (s : State) : Nat → Word
  | 0 | 1 => s.busData
  | 2 => resultWord s
  | 3 => s.resultCount
  | _ => s.resultDistUm

/-- The state after k of the four accesses, with rest scheduled behind them. -/
def afterLastResultAccesses (s : State) (rest : List Stimulus) (k : Nat) : State :=
  { s with
    resp := if k = 0 then s.resp else answered (s.resultStatus.code.setWidth 16)
    agenda := (lastResultAccesses s.config).drop k ++ rest
    busData := lastResultBusData s k }

section
variable {s : State} {rest : List Stimulus}

theorem afterLastResultAccesses_zero (ha : s.agenda = lastResultAccesses s.config ++ rest) :
    afterLastResultAccesses s rest 0 = s := by
  simp only [afterLastResultAccesses, List.drop_zero, ← ha]
  rfl

/-- The first access executes GET_RESULT, the other three are reads (R62, R214). -/
theorem step_afterLastResultAccesses (hc : s.config.wf = true) (h : s.faulted = false) :
    ∀ k < 4, step (afterLastResultAccesses s rest k)
      = .next (afterLastResultAccesses s rest (k + 1))
  | 0, _ => by
    have hd : decode 0x13000000#32 = .ok .getResult := rfl
    have written := step_cmdWrite (s := afterLastResultAccesses s rest 0) hc rfl
    rw [written, execute_decoded hd]
    exact exec_getResult_usable h
  | 1, _ => step_hostRead (off := 0x18) hc rfl rfl (by decide)
  | 2, _ => step_hostRead (off := 0x1C) hc rfl rfl (by decide)
  | 3, _ => step_hostRead (off := 0x20) hc rfl rfl (by decide)

theorem run_lastResultAccesses (hc : s.config.wf = true) (h : s.faulted = false)
    (ha : s.agenda = lastResultAccesses s.config ++ rest) {k : Nat} (hk : k ≤ 4) :
    Sys2Proof.core.run k s = .next (afterLastResultAccesses s rest k) := by
  have path := core_run_path (k := k) (f := afterLastResultAccesses s rest)
    fun i hi => step_afterLastResultAccesses hc h i (hi.trans_le hk)
  rwa [afterLastResultAccesses_zero ha] at path

end

/-! ### What keeps the last result -/

/-- Every command but ADVANCE keeps the last result. -/
theorem exec_lastResult {i : Instr} {s t : State} (hi : i ≠ .advance)
    (h : exec i s = .next t) : lastResult t = lastResult s := by
  rcases exec_next h with ⟨e, rfl⟩ | ⟨-, ⟨-, _, _, _, _, _, _, _, rfl⟩ | ⟨-, -, -, rfl⟩ |
    ⟨-, -, rfl⟩ | ⟨hadv, -⟩ | ⟨d, rfl⟩⟩
  · rfl
  · rfl
  · obtain ⟨-, hstatus, -, -, hdist, -⟩ := setupBuffers_keepsResult (setupLength s) s
    exact lastResult_congr hstatus hdist
  · rfl
  · exact absurd hadv hi
  · rfl

theorem execute_lastResult {w : Word} {s t : State} (hw : decode w ≠ .ok .advance)
    (h : execute w s = .next t) : lastResult t = lastResult s := by
  rcases execute_next h with ⟨e, rfl⟩ | ⟨i, hd, hi⟩
  · rfl
  · exact exec_lastResult (fun hadv => hw (hadv ▸ hd)) hi

theorem bufNeeded_lastResult (s : State) : lastResult (bufNeeded s) = lastResult s := by
  rcases bufNeeded_cases s with ⟨-, e⟩ | ⟨-, -, e⟩ | ⟨-, -, -, e⟩ <;> rw [e] <;> rfl

theorem periphWrite_lastResult (write : Memory → Memory) (s : State) :
    lastResult (periphWrite write s) = lastResult s := by
  rcases periphWrite_cases write s with ⟨-, e⟩ | ⟨-, e⟩
  · rw [e]; rfl
  · rw [e]

/-- Only a reset and a write of ADVANCE can change the last result. -/
theorem applyStimulus_lastResult {e : Stimulus} {s t : State}
    (h : applyStimulus e s = .next t) (hr : ¬ (e = .reset ∨ e = .powerDown))
    (hw : ∀ a n w, e = .hostWrite a n w → decode w ≠ .ok .advance) :
    lastResult t = lastResult s := by
  cases e with
  | quiet | present d => cases h; rfl
  | hostRead a n => obtain ⟨v, rfl⟩ := hostRead_next h; rfl
  | hostWrite a n w =>
    rcases hostWrite_next h with rfl | ⟨-, -, hx⟩
    · rfl
    · exact execute_lastResult (hw a n w rfl) hx
  | bufNeeded => cases h; exact bufNeeded_lastResult s
  | rxWord i v | rxUnit u v => cases h; exact periphWrite_lastResult _ s
  | reset => exact absurd (.inl rfl) hr
  | powerDown => exact absurd (.inr rfl) hr

/-- Settles O57: the quotient is exact, the accesses are one command and three reads, and a step keeps
the two registers the value comes from. -/
theorem lastResultIsStatusAndExactMetres : Obligations.LastResultIsStatusAndExactMetres := by
  refine ⟨fun s => ⟨rfl, ?_⟩, fun c => rfl, fun s rest hc h ha k hk => ?_, fun s t h hr hw => ?_⟩
  · rw [show (1000000 : Rat) = 10 ^ 6 by norm_num]
    exact metersOfUm_mul s.resultDistUm
  · refine ⟨_, run_lastResultAccesses hc h ha hk, rfl, rfl, fun hpos => ?_, ?_, ?_, ?_⟩
    · exact if_neg (Nat.one_le_iff_ne_zero.mp hpos)
    all_goals rintro rfl; rfl
  · obtain ⟨-, ag, ix, -, he⟩ := step_next h
    exact (applyStimulus_lastResult he hr hw :)

end Sys2Proof.Machine
end

section
/-!
SUPPORT. The family 46_monitor.md: what a notification does (R230, R231), and one measurement from SAMPLE_ONCE
to its result (R160 to R174, R193, R194).
-/

namespace Sys2Proof.Machine

/-! ### A notification -/

/-- The saturating increment as one word (R230). -/
theorem saturatingIncr_eq_ofNat (w : Word) :
    saturatingIncr w = BitVec.ofNat 32 (min (w.toNat + 1) (2 ^ 32 - 1)) := by
  rw [← saturatingIncr_toNat, BitVec.ofNat_toNat, BitVec.setWidth_eq]

section
variable {s : State} {rest : List Stimulus}

/-- While faulted a notification is ignored (R230). -/
theorem step_bufNeeded_faulted (hc : s.config.wf = true) (ha : s.agenda = .bufNeeded :: rest)
    (h : s.faulted = true) : step s = .next { s with agenda := rest } :=
  (step_scheduled hc ha).trans (congrArg Host.Outcome.next (if_pos h))

/-- A notification that does not complete a running transfer only counts (R230). -/
theorem step_bufNeeded_counts (hc : s.config.wf = true) (ha : s.agenda = .bufNeeded :: rest)
    (h : s.faulted = false)
    (hn : ¬ (s.bufreq.toNat + 1 = s.config.bufsForComplete ∧ s.periph = .running)) :
    step s = .next { s with agenda := rest, bufreq := saturatingIncr s.bufreq } := by
  have usable : ¬ s.faulted = true := by simp [h]
  exact (step_scheduled hc ha).trans
    (congrArg Host.Outcome.next ((if_neg usable).trans (if_neg hn)))

/-- The notification that completes a running transfer counts and stops the peripheral (R231). -/
theorem step_bufNeeded_stops (hc : s.config.wf = true) (ha : s.agenda = .bufNeeded :: rest)
    (h : s.faulted = false) (hn : s.bufreq.toNat + 1 = s.config.bufsForComplete)
    (hp : s.periph = .running) :
    step s = .next
      { s with
        agenda := rest
        bufreq := saturatingIncr s.bufreq
        out := s.out ++ [.pStop]
        periph := .stopped } := by
  have usable : ¬ s.faulted = true := by simp [h]
  exact (step_scheduled hc ha).trans
    (congrArg Host.Outcome.next ((if_neg usable).trans (if_pos ⟨hn, hp⟩)))

end

/-- Settles O37: the scheduled step is the notification, in its three cases. -/
theorem notificationCountsAndStops : Obligations.NotificationCountsAndStops := by
  intro s rest hc ha
  rw [← saturatingIncr_eq_ofNat]
  exact ⟨step_bufNeeded_faulted hc ha, step_bufNeeded_counts hc ha, step_bufNeeded_stops hc ha⟩

/-! ### The phases of a measurement -/

/-- The state in SAMPLING after SAMPLE_ONCE and an ADVANCE that started the peripheral at `now`, with the
stimuli `rest` still scheduled (R146, R165 to R169). -/
def samplingStarted (s : State) (now : Word) (rest : List Stimulus) : State :=
  { usedDraws s with
    agenda := rest
    resp := answered 2#16
    state := .sampling
    periph := .running
    bufreq := 0#32
    startMs := now
    rx := Memory.zeroed
    tx := Memory.zeroed.writeIn s.numSamples.toNat 0 s.config.triggerWord
    out := s.out ++ [.pInit s.config.pcfg s.pinTrig s.pinEcho s.pinAux1 s.pinAux2,
      .pStart (BitVec.ofNat 32 (s.numSamples.toNat / 2))] }

/-- The state after the peripheral wrote word i of RX and its second notification completed the transfer,
with the stimuli `rest` still scheduled (R68, R230, R231). -/
def transferDone (s : State) (i : Nat) (v : Sample) (rest : List Stimulus) : State :=
  { s with
    agenda := rest
    rx := s.rx.writeSample i v
    bufreq := 2#32
    out := s.out ++ [.pStop]
    periph := .stopped }

section
variable {s : State} {k : Nat} {rest : List Stimulus}

/-- A scheduled SAMPLE_ONCE in IDLE (R146). -/
theorem step_sampleOnce_idle (hc : s.config.wf = true)
    (ha : s.agenda = .hostWrite s.config.regBase 4 0x11000000#32 :: rest)
    (h : s.faulted = false) (hs : s.state = .idle) :
    step s = .next { s with agenda := rest, state := .triggering, resp := answered 0#16 } :=
  (step_cmdWrite hc ha).trans (execSampleOnce_idle h hs)

/-- The environment settles what the next ADVANCE draws (R46). -/
theorem step_present {d : Draws} (hc : s.config.wf = true) (ha : s.agenda = .present d :: rest) :
    step s = .next { s with agenda := rest, draws := d } := step_scheduled hc ha

/-- A scheduled ADVANCE in TRIGGERING whose draws let the peripheral start (R165 to R169). -/
theorem step_advance_started (hc : s.config.wf = true)
    (ha : s.agenda = .hostWrite s.config.regBase 4 0x12000000#32 :: rest)
    (h : s.faulted = false) (hs : s.state = .triggering) (halloc : s.alloc = true)
    (hi : s.draws.initOk = true) (hst : s.draws.startOk = true) :
    step s = .next (samplingStarted s s.draws.nowMs rest) := by
  refine (step_cmdWrite hc ha).trans
    ((execAdvance_triggering (s := { s with agenda := rest }) h hs halloc).trans ?_)
  rw [triggeringHandler_started hi hst, startedCycle_eq]
  rfl

/-- A word the running peripheral writes inside RX (R68). -/
theorem step_rxWord_inside {i : Nat} {v : Sample} (hc : s.config.wf = true)
    (ha : s.agenda = .rxWord i v :: rest) (hp : s.periph = .running) (hi : i < s.numSamples.toNat) :
    step s = .next { s with agenda := rest, rx := s.rx.writeSample i v } :=
  (step_scheduled hc ha).trans (applyStimulus_rxWord_inside hp hi)

/-- SAMPLE_ONCE, the draws of a successful start and ADVANCE reach SAMPLING. -/
theorem run_samplingStarted {now : Word} (hc : s.config.wf = true) (h : s.faulted = false)
    (hs : s.state = .idle) (halloc : s.alloc = true)
    (ha : s.agenda = .hostWrite s.config.regBase 4 0x11000000#32
      :: .present { nowMs := now, initOk := true, startOk := true }
      :: .hostWrite s.config.regBase 4 0x12000000#32 :: rest) :
    Sys2Proof.core.run (k + 3) s = Sys2Proof.core.run k (samplingStarted s now rest) := by
  rw [core_run_succ (step_sampleOnce_idle hc ha h hs)]
  refine Eq.trans (core_run_succ (step_present hc rfl)) ?_
  exact core_run_succ (step_advance_started hc rfl h rfl halloc rfl rfl)

/-- One word and two notifications complete a transfer that waits for two. -/
theorem run_transferDone {i : Nat} {v : Sample} (hc : s.config.wf = true) (h : s.faulted = false)
    (hp : s.periph = .running) (hb : s.bufreq = 0#32) (htwo : s.config.bufsForComplete = 2)
    (hi : i < s.numSamples.toNat) (ha : s.agenda = .rxWord i v :: .bufNeeded :: .bufNeeded :: rest) :
    Sys2Proof.core.run (k + 3) s = Sys2Proof.core.run k (transferDone s i v rest) := by
  have first : saturatingIncr s.bufreq = 1#32 := hb ▸ rfl
  rw [core_run_succ (step_rxWord_inside hc ha hp hi)]
  refine Eq.trans (core_run_succ (step_bufNeeded_counts hc rfl h ?_)) ?_
  · simp [hb, htwo]
  · simp only [first]
    exact core_run_succ (step_bufNeeded_stops hc rfl h htwo.symm hp)

end

/-- The state before a measurement's last ADVANCE: the cycle started at `now`, and its transfer brought the
word v to place i of RX. -/
def measured (s : State) (now : Word) (i : Nat) (v : Sample) (rest : List Stimulus) : State :=
  transferDone (samplingStarted s now []) i v rest

/-- The schedule up to its last ADVANCE: the cycle starts, then its transfer completes. -/
theorem run_measured {s : State} {now : Word} {i k : Nat} {v : Sample} {rest : List Stimulus}
    (hc : s.config.wf = true) (h : s.faulted = false) (hs : s.state = .idle)
    (halloc : s.alloc = true) (htwo : s.config.bufsForComplete = 2) (hi : i < s.numSamples.toNat)
    (ha : s.agenda = .hostWrite s.config.regBase 4 0x11000000#32
      :: .present { nowMs := now, initOk := true, startOk := true }
      :: .hostWrite s.config.regBase 4 0x12000000#32 :: .rxWord i v :: .bufNeeded :: .bufNeeded
      :: rest) :
    Sys2Proof.core.run (k + 6) s = Sys2Proof.core.run k (measured s now i v rest) :=
  (run_samplingStarted hc h hs halloc ha).trans (run_transferDone hc h rfl rfl htwo hi rfl)

/-- One word written into a zeroed RX is all that the sum sees (R193). -/
theorem setBitsOfRx_single {s : State} {i : Nat} {v : Sample}
    (hrx : s.rx = Memory.zeroed.writeSample i v) (hi : i < s.numSamples.toNat) :
    setBitsOfRx s = popcount16 v := by
  have others : ∀ j, j ≠ i → popcount16 (s.rx.readSample j) = 0 := fun j hj => by
    rw [hrx, readSample_writeSample_ne _ _ hj.symm, readSample_zeroed, popcount16_zero]
  rw [← echoSum_eq_setBitsOfRx, echoSum, sumBelow_single hi others, hrx,
    readSample_writeSample_same _ _ zeroed_wf]

/-- Settles O56: the run reaches the last ADVANCE, which finds the transfer complete and records the one
word of RX; the invariant the run keeps makes the record exact. -/
theorem measurementCompletes : Obligations.MeasurementCompletes := by
  intro s now i v hinv h hs halloc htwo hi ha
  have hc : s.config.wf = true := hinv.1
  have reached {k : Nat} := run_measured (k := k) hc h hs halloc htwo hi ha
  have kept := run_keeps Sys2Proof.core State.Inv (fun _ _ => step_inv) 6 _ _ hinv reached
  obtain ⟨t, answer, ht, hcount, hdist, -⟩ :=
    samplingSucceeds (measured s now i v []) kept h rfl htwo.le
  have oneWord : setBitsOfRx (measured s now i v []) = popcount16 v := setBitsOfRx_single rfl hi
  rw [oneWord] at hcount hdist
  refine ⟨t, reached.trans (core_run_succ ?last), congrArg State.state ht,
    congrArg State.periph ht, congrArg State.bufreq ht, congrArg State.startMs ht,
    congrArg State.resultStatus ht, congrArg State.resultCause ht, congrArg State.resultSeq ht,
    hcount, hdist, ?trace⟩
  case last => exact Eq.trans (step_cmdWrite hc rfl) answer
  case trace =>
    refine (congrArg State.out ht).trans ?_
    simp [measured, transferDone, samplingStarted]

end Sys2Proof.Machine
end

section
/-!
SUPPORT. The family 60_exceptions.md: what a faulted PWS still does (R255, R257), the pins it drives (R263),
and elapsed time on a clock that wraps or steps back (R261, R291).
-/

namespace Sys2Proof.Machine

/-! ### A faulted PWS -/

section
variable {s t : State}

/-- While faulted a notification is ignored (R230, R255). -/
theorem bufNeeded_faulted (h : s.faulted = true) : bufNeeded s = s := if_pos h

/-- A read of an aligned offset of the window returns its register, in every state (R61, R62). -/
theorem hostRead_aligned {off : Nat} (hc : s.config.wf = true) (h4 : off % 4 = 0) (h : off < 0x40) :
    hostRead (s.config.regBase + off) 4 s = .next { s with busData := readReg (regAt off) s } := by
  simp only [hostRead, windowOffset_aligned (regBase_aligned hc) h4 h]

/-- Both faults are raised outside SAMPLING, so while faulted the peripheral is not running (R50, R255). -/
theorem not_running_of_faulted (h : s.Inv) (hf : s.faulted = true) : s.periph ≠ .running := by
  intro hp
  have hs := sampling_of_running h hp
  obtain ⟨-, -, -, ⟨hresize, hnobuf⟩, -⟩ := h
  rcases Bool.or_eq_true_iff.mp hf with hbit | hbit
  · simp [(hresize hbit).1] at hs
  · simp [(hnobuf hbit).1] at hs

/-- While faulted no stimulus but a reset reaches more than RESP and the environment's own fields: commands
are answered, notifications are ignored, and the peripheral does not run. -/
theorem applyStimulus_faulted {e : Stimulus} (h : s.Inv) (hf : s.faulted = true)
    (hr : ¬ (e = .reset ∨ e = .powerDown)) (hx : applyStimulus e s = .next t) :
    ∃ r d b, t = { s with resp := r, draws := d, busData := b } := by
  have noWrite (write : Memory → Memory) : periphWrite write s = s :=
    if_neg (not_running_of_faulted h hf)
  rcases applyStimulus_next hx with rfl | ⟨v, rfl⟩ | ⟨w, hw⟩ | ⟨-, rfl⟩ | ⟨i, v, -, rfl⟩ |
    ⟨u, v, -, rfl⟩ | ⟨d, rfl⟩ | ⟨hreset, -⟩
  · exact ⟨_, _, _, rfl⟩
  · exact ⟨_, _, _, rfl⟩
  · rw [execute_faulted w hf] at hw
    cases hw
    exact ⟨_, _, _, rfl⟩
  · exact ⟨_, _, _, bufNeeded_faulted hf⟩
  · exact ⟨_, _, _, noWrite _⟩
  · exact ⟨_, _, _, noWrite _⟩
  · exact ⟨_, _, _, rfl⟩
  · exact absurd hreset hr

end

/-- Settles O52: the stimulus a step takes reaches RESP and the environment's own fields only. -/
theorem faultFreezesTheMachine : Obligations.FaultFreezesTheMachine := by
  intro s t h hf hx hr
  obtain ⟨-, ag, ix, -, ha⟩ := step_next hx
  obtain ⟨r, d, b, rfl⟩ :=
    applyStimulus_faulted (s := { s with agenda := ag, freeIx := ix }) h hf hr ha
  rfl

/-- Settles O10: the FAULTED check of every arm and of illegal words, and the two operations that need no
command. -/
theorem faultedMachineOnlyAnswers : Obligations.FaultedMachineOnlyAnswers := fun _ h =>
  ⟨fun i => exec_faulted i h, fun w => execute_faulted w h, bufNeeded_faulted h,
    fun hc _ h4 hoff => hostRead_aligned hc h4 hoff⟩

/-! ### The pins the PWS drives -/

/-- No action of the trace drives a pin high, and no pin is high (R263). -/
abbrev State.noHigh (s : State) : Prop :=
  (∀ p, Action.gpioWrite p true ∉ s.out) ∧ PinLevel.high ∉ s.pinLevel

/-- Only a high write makes a level high. -/
theorem high_notMem_levelsAfter {k : Nat} {a : Action} {l : List PinLevel}
    (ha : ∀ p, a ≠ .gpioWrite p true) (hl : PinLevel.high ∉ l) :
    PinLevel.high ∉ levelsAfter k a l := by
  cases a with
  | gpioWrite p v =>
    cases v with
    | true => exact absurd rfl (ha p)
    | false =>
      simp only [levelsAfter]
      split
      · intro hm
        rcases List.mem_or_eq_of_mem_set hm with hm | hm
        · exact hl hm
        · cases hm
      · exact hl
  | gpioMode | pInit | pStart | pStop | pUninit | resultEvent => exact hl

section
variable {s t : State}

/-- A low write is no high one, whatever the pins. -/
theorem gpioWrite_low_ne_high (p q : Pin) : Action.gpioWrite p false ≠ .gpioWrite q true := by simp

theorem emit_noHigh {a : Action} (ha : ∀ p, a ≠ .gpioWrite p true) (h : s.noHigh) :
    (emit a s).noHigh := by
  obtain ⟨hout, hlevel⟩ := h
  refine ⟨fun p hm => ?_, high_notMem_levelsAfter ha hlevel⟩
  rcases List.mem_append.mp hm with hm | hm
  · exact hout p hm
  · exact ha p (List.mem_singleton.mp hm).symm

theorem record_noHigh (status : ResultStatus) (cause : Cause) (n dist : Word) (h : s.noHigh) :
    (record status cause n dist s).noHigh := by
  unfold record
  split
  · exact emit_noHigh nofun h
  · exact h

/-- SETUP drives one pin, the trigger, and drives it low (R144). -/
theorem setupDone_noHigh (h : s.noHigh) : (setupDone s).noHigh :=
  emit_noHigh nofun (emit_noHigh nofun (emit_noHigh nofun
    (emit_noHigh (gpioWrite_low_ne_high s.pinTrig) (emit_noHigh nofun h))))

theorem setupBuffers_noHigh (n : Nat) (h : s.noHigh) : (setupBuffers n s).noHigh := by
  rcases setupBuffers_cases n s with ⟨-, -, e⟩ | ⟨-, -, e⟩ | ⟨-, -, e⟩ | ⟨-, -, e⟩ <;> rw [e]
  · exact setupDone_noHigh h
  · exact h
  · exact h
  · exact setupDone_noHigh (s := allocate n s) h

theorem idleHandler_noHigh (now : Word) (h : s.noHigh) : (idleHandler now s).noHigh := by
  rcases idleHandler_cases now s with ⟨-, e⟩ | ⟨-, e⟩ <;> rw [e] <;> exact h

theorem startedCycle_noHigh (h : s.noHigh) : (startedCycle s).noHigh :=
  emit_noHigh nofun (emit_noHigh (a := initAction s) nofun h :)

theorem triggeringHandler_noHigh (d : Draws) (h : s.noHigh) : (triggeringHandler d s).noHigh := by
  rcases triggeringHandler_cases d s with ⟨-, e⟩ | ⟨-, -, e⟩ | ⟨-, -, e⟩ <;> rw [e]
  · exact record_noHigh _ _ _ _ (emit_noHigh nofun h)
  · exact record_noHigh _ _ _ _ (startedCycle_noHigh h)
  · exact startedCycle_noHigh h

/-- The SAMPLING exit forces the trigger pin low (R172). -/
theorem samplingExit_noHigh (h : s.noHigh) : (samplingExit s).noHigh :=
  emit_noHigh (gpioWrite_low_ne_high s.pinTrig) (emit_noHigh (a := .pUninit) nofun h :)

theorem samplingHandler_noHigh (now : Word) (h : s.noHigh) : (samplingHandler now s).noHigh := by
  rcases samplingHandler_cases now s with ⟨-, e⟩ | ⟨-, -, e⟩ | ⟨-, -, e⟩ <;> rw [e]
  · exact record_noHigh _ _ _ _ (samplingExit_noHigh h)
  · exact record_noHigh _ _ _ _ (samplingExit_noHigh h)
  · exact h

theorem execAdvance_noHigh (h : s.noHigh) (hx : execAdvance s = .next t) : t.noHigh := by
  rcases execAdvance_next hx with ⟨-, rfl⟩ | ⟨-, ⟨-, rfl⟩ | ⟨-, -, rfl⟩ | ⟨-, -, rfl⟩ | ⟨-, rfl⟩⟩
  · exact h
  · exact idleHandler_noHigh (s := redraw s) _ h
  · exact h
  · exact triggeringHandler_noHigh (s := redraw s) _ h
  · exact samplingHandler_noHigh (s := redraw s) _ h

theorem exec_noHigh {i : Instr} (h : s.noHigh) (hx : exec i s = .next t) : t.noHigh := by
  rcases exec_next hx with ⟨e, rfl⟩ | ⟨-, ⟨-, _, _, _, _, _, _, _, rfl⟩ | ⟨-, -, -, rfl⟩ |
    ⟨-, -, rfl⟩ | ⟨-, ha⟩ | ⟨d, rfl⟩⟩
  · exact h
  · exact h
  · exact setupBuffers_noHigh _ h
  · exact h
  · exact execAdvance_noHigh h ha
  · exact h

theorem execute_noHigh {w : Word} (h : s.noHigh) (hx : execute w s = .next t) : t.noHigh := by
  rcases execute_next hx with ⟨e, rfl⟩ | ⟨i, -, hi⟩
  · exact h
  · exact exec_noHigh h hi

theorem bufNeeded_noHigh (h : s.noHigh) : (bufNeeded s).noHigh := by
  rcases bufNeeded_cases s with ⟨-, e⟩ | ⟨-, -, e⟩ | ⟨-, -, -, e⟩ <;> rw [e]
  · exact h
  · exact h
  · exact (emit_noHigh (a := .pStop) nofun h :)

theorem periphWrite_noHigh (write : Memory → Memory) (h : s.noHigh) :
    (periphWrite write s).noHigh := by
  rcases periphWrite_cases write s with ⟨-, e⟩ | ⟨-, e⟩ <;> rw [e] <;> exact h

/-- After reset the trace is empty and every level is unknown (R45, R51). -/
theorem applyReset_noHigh (s : State) : (applyReset s).noHigh :=
  ⟨fun _ => List.not_mem_nil, fun hm => nomatch (List.mem_replicate.mp hm).2⟩

theorem applyStimulus_noHigh {e : Stimulus} (h : s.noHigh) (hx : applyStimulus e s = .next t) :
    t.noHigh := by
  rcases applyStimulus_next hx with rfl | ⟨v, rfl⟩ | ⟨w, hw⟩ | ⟨-, rfl⟩ | ⟨i, v, -, rfl⟩ |
    ⟨u, v, -, rfl⟩ | ⟨d, rfl⟩ | ⟨-, rfl⟩
  · exact h
  · exact h
  · exact execute_noHigh h hw
  · exact bufNeeded_noHigh h
  · exact periphWrite_noHigh _ h
  · exact periphWrite_noHigh _ h
  · exact h
  · exact applyReset_noHigh s

end

/-- Settles O53: every GPIO_WRITE the PWS emits is the trigger pin's low write. -/
theorem noPinIsEverDrivenHigh : Obligations.NoPinIsEverDrivenHigh := by
  intro s t hx hout hlevel
  obtain ⟨-, ag, ix, -, ha⟩ := step_next hx
  exact applyStimulus_noHigh (s := { s with agenda := ag, freeIx := ix }) ⟨hout, hlevel⟩ ha

/-! ### Elapsed time -/

section
variable {s : State} {t0 t1 : Nat}

/-- The elapsed time between two clock samples, in exact arithmetic (R261). -/
theorem elapsed_clockAt (h : s.startMs = clockAt t0) (t1 : Nat) :
    (elapsed (clockAt t1) s).toNat = (t1 % 2 ^ 32 + 2 ^ 32 - t0 % 2 ^ 32) % 2 ^ 32 := by
  rw [elapsed_toNat, h, clockAt, clockAt, BitVec.toNat_ofNat, BitVec.toNat_ofNat]

/-- Under R291's premise the elapsed time is the real one, across a wrap too. -/
theorem elapsed_of_clockAdvances (h : s.startMs = clockAt t0) (ha : clockAdvances t0 t1) :
    (elapsed (clockAt t1) s).toNat = t1 - t0 := by
  obtain ⟨hle, hlt⟩ := ha
  rw [elapsed_clockAt h]
  omega

/-- A clock that steps back by less than a wrap seems to have run on for the rest of it (R291). -/
theorem elapsed_of_stepBack (h : s.startMs = clockAt t0) (hlt : t1 < t0)
    (hback : t0 - t1 < 2 ^ 32) : (elapsed (clockAt t1) s).toNat = 2 ^ 32 - (t0 - t1) := by
  rw [elapsed_clockAt h]
  omega

end

/-- Settles O54: a step back by at most 2^31 ms leaves 2^31 ms or more, and R8 keeps the timeout below. -/
theorem elapsedTimeAcrossWrap : Obligations.ElapsedTimeAcrossWrap := by
  intro s t0 t1 h
  refine ⟨elapsed_of_clockAdvances h, fun hc hlt hback => ?_⟩
  obtain ⟨-, -, -, -, -, -, -, htimeout, -⟩ := wf_parts hc
  have hel := elapsed_of_stepBack h hlt (by omega)
  rw [timedOut, decide_eq_true_iff, hel]
  omega

end Sys2Proof.Machine
end

section
/-!
SUPPORT. The family 70_reset_and_hazards.md: what a reset does (R280, R266), and that it is the only release of
the sample buffers (R281).
-/

namespace Sys2Proof.Machine

/-! ### Reset -/

/-- A power-down is a reset (R266). -/
theorem applyStimulus_reset {e : Stimulus} (h : e = .reset ∨ e = .powerDown) (s : State) :
    applyStimulus e s = .next (applyReset s) := by
  rcases h with rfl | rfl <;> rfl

/-- Settles O47: the step is `applyReset` of the state that has taken the stimulus. -/
theorem resetStepFromAnyState : Obligations.ResetStepFromAnyState := by
  intro s rest e hc he ha
  rw [step_scheduled hc ha, applyStimulus_reset he]
  rfl

/-! ### What keeps the buffers -/

/-- From s to t the sample buffers are neither allocated nor released: ALLOC and NUM_SAMPLES stay. -/
def State.KeepsBuffers (s t : State) : Prop :=
  t.alloc = s.alloc ∧ t.numSamples = s.numSamples

section
variable {s t : State}

theorem keepsBuffers_self (s : State) : s.KeepsBuffers s := ⟨rfl, rfl⟩

/-- SETUP keeps the buffers there are: it configures the pins again or raises F_RESIZE (R140). -/
theorem setupBuffers_keepsBuffers (n : Nat) (ha : s.alloc = true) :
    s.KeepsBuffers (setupBuffers n s) := by
  rcases setupBuffers_cases n s with ⟨-, -, e⟩ | ⟨-, -, e⟩ | ⟨hfree, -⟩ | ⟨hfree, -⟩
  · simp [State.KeepsBuffers, e, setupDone]
  · simp [State.KeepsBuffers, e, faultCommand]
  · simp [ha] at hfree
  · simp [ha] at hfree

theorem idleHandler_keepsBuffers (now : Word) (s : State) :
    s.KeepsBuffers (idleHandler now s) := by
  rcases idleHandler_cases now s with ⟨-, e⟩ | ⟨-, e⟩ <;> rw [e] <;> exact keepsBuffers_self s

/-- The TRIGGERING handler writes what the buffers hold, never whether they are there (R166). -/
theorem triggeringHandler_keepsBuffers (d : Draws) (s : State) :
    s.KeepsBuffers (triggeringHandler d s) := by
  rcases triggeringHandler_cases d s with ⟨-, e⟩ | ⟨-, -, e⟩ | ⟨-, -, e⟩
  · simp [State.KeepsBuffers, e, triggerFailed]
  · simp [State.KeepsBuffers, e, triggerFailed, startedCycle]
  · simp [State.KeepsBuffers, e, startedCycle]

/-- The SAMPLING exit deinitializes the peripheral and keeps the buffers (R172). -/
theorem samplingHandler_keepsBuffers (now : Word) (s : State) :
    s.KeepsBuffers (samplingHandler now s) := by
  rcases samplingHandler_cases now s with ⟨-, e⟩ | ⟨-, -, e⟩ | ⟨-, -, e⟩
  · simp [State.KeepsBuffers, e, recordSuccess]
  · simp [State.KeepsBuffers, e]
  · simp [State.KeepsBuffers, e]

theorem execAdvance_keepsBuffers (hx : execAdvance s = .next t) : s.KeepsBuffers t := by
  rcases execAdvance_next hx with
    ⟨-, rfl⟩ | ⟨-, ⟨-, rfl⟩ | ⟨-, -, rfl⟩ | ⟨-, -, rfl⟩ | ⟨-, rfl⟩⟩
  · exact keepsBuffers_self s
  · exact idleHandler_keepsBuffers _ (redraw s)
  · exact keepsBuffers_self s
  · exact triggeringHandler_keepsBuffers _ (redraw s)
  · exact samplingHandler_keepsBuffers _ (redraw s)

/-- No command releases or resizes the buffers there are. -/
theorem exec_keepsBuffers {i : Instr} (ha : s.alloc = true) (hx : exec i s = .next t) :
    s.KeepsBuffers t := by
  rcases exec_next hx with ⟨e, rfl⟩ | ⟨-, ⟨-, _, _, _, _, _, _, _, rfl⟩ | ⟨-, -, -, rfl⟩ |
    ⟨-, -, rfl⟩ | ⟨-, hadv⟩ | ⟨d, rfl⟩⟩
  · exact keepsBuffers_self s
  · exact keepsBuffers_self s
  · exact setupBuffers_keepsBuffers _ ha
  · exact keepsBuffers_self s
  · exact execAdvance_keepsBuffers hadv
  · exact keepsBuffers_self s

theorem execute_keepsBuffers {w : Word} (ha : s.alloc = true) (hx : execute w s = .next t) :
    s.KeepsBuffers t := by
  rcases execute_next hx with ⟨e, rfl⟩ | ⟨i, -, hi⟩
  · exact keepsBuffers_self s
  · exact exec_keepsBuffers ha hi

theorem bufNeeded_keepsBuffers (s : State) : s.KeepsBuffers (bufNeeded s) := by
  rcases bufNeeded_cases s with ⟨-, e⟩ | ⟨-, -, e⟩ | ⟨-, -, -, e⟩ <;> rw [e] <;>
    exact keepsBuffers_self s

theorem periphWrite_keepsBuffers (write : Memory → Memory) (s : State) :
    s.KeepsBuffers (periphWrite write s) := by
  rcases periphWrite_cases write s with ⟨-, e⟩ | ⟨-, e⟩ <;> rw [e] <;> exact keepsBuffers_self s

/-- Reset is the one release path (R281): every other stimulus keeps the buffers there are. -/
theorem applyStimulus_keepsBuffers {e : Stimulus} (ha : s.alloc = true)
    (hr : ¬ (e = .reset ∨ e = .powerDown)) (hx : applyStimulus e s = .next t) :
    s.KeepsBuffers t := by
  rcases applyStimulus_next hx with rfl | ⟨v, rfl⟩ | ⟨w, hw⟩ | ⟨-, rfl⟩ | ⟨i, v, -, rfl⟩ |
    ⟨u, v, -, rfl⟩ | ⟨d, rfl⟩ | ⟨hreset, -⟩
  · exact keepsBuffers_self t
  · exact keepsBuffers_self s
  · exact execute_keepsBuffers ha hw
  · exact bufNeeded_keepsBuffers s
  · exact periphWrite_keepsBuffers _ s
  · exact periphWrite_keepsBuffers _ s
  · exact keepsBuffers_self s
  · exact absurd hreset hr

end

/-- Settles O48: a reset gives R51's empty buffers, and any other stimulus keeps the buffers there are. -/
theorem onlyResetReleasesBuffers : Obligations.OnlyResetReleasesBuffers := by
  intro s t hx
  obtain ⟨-, ag, ix, -, ha⟩ := step_next hx
  refine ⟨fun hr => ?_, fun hr halloc => ?_⟩
  · rw [applyStimulus_reset hr] at ha
    cases ha
    exact ⟨rfl, rfl, rfl, rfl⟩
  · obtain ⟨hkeep, hlen⟩ :=
      applyStimulus_keepsBuffers (s := { s with agenda := ag, freeIx := ix }) halloc hr ha
    exact ⟨hkeep.trans halloc, hlen⟩

end Sys2Proof.Machine
end
